-- ==== Sys2Proof/Word.lean ====
section
/-! DEFINITION. The plain types of the ABP418's numbers: bytes, block numbers, port numbers, lock ids, ticks. -/

namespace Sys2Proof

/-- One byte of a register, of the staging buffer or of the pool. -/
abbrev Byte := BitVec 8

/-- A block number, 0 to 511 (R1, R98): the nine bits of the pairs BLOCK and DEST. -/
abbrev BlockNo := BitVec 9

/-- A port number, 0 to 3. -/
abbrev PortId := Fin 4

/-- A lock id, 0 to 31 (R18). -/
abbrev LockId := Fin 32

/-- A number of a tick of the timebase, counted from power-on or device reset (R63). -/
abbrev Tick := Nat

/-- The `n` values `f 0`, …, `f (n - 1)`. -/
def tabulate {α : Type} (n : Nat) (f : Nat → α) : Vector α n :=
  ⟨⟨(List.range n).map f⟩, by simp⟩

/-- The 128 bytes of a block, of the staging buffer or of a record (R1, R102, R166). -/
abbrev Bytes := Vector Byte 128

/-- The four ports, lowest first. -/
def allPorts : List PortId := [0, 1, 2, 3]

/-- The 32 lock ids, lowest first. -/
def allLocks : List LockId := (List.range 32).map (Fin.ofNat 32)

end Sys2Proof
end

