-- ==== Sys2Proof/Config.lean ====
section
/-! DEFINITION. What the manual fixes for the part as a whole, and the values it leaves open. -/

namespace Sys2Proof

/-- How a check group reads (R2). -/
inductive GroupClass where
  /-- data and check byte agree -/
  | clean
  /-- one wrong bit among the 72, which the code identifies -/
  | correctable
  /-- the disagreement cannot be attributed to one bit -/
  | uncorrectable
deriving DecidableEq, Repr, Inhabited

namespace Config

/-- Bytes of storage a block takes: 128 of data and 16 check bytes (1.1). -/
abbrev blockStorage : Nat := 144

/-- Entries the fault list holds (R13). -/
abbrev faultListSize : Nat := 16

/-- Notes a note queue holds (R137). -/
abbrev noteDepth : Nat := 8

/-- Port grants a waiting scrub request lets pass (R84). -/
abbrev scrubBound : Nat := 16

/-- The check byte of the eight data bytes of a group (R2). FREE VALUE: the manual does not give the code (log 10). -/
opaque checkByte : BitVec 64 → Byte

/-- The bit, if any, to which the code attributes a disagreement in a group of which three or more of the 72 stored bits are
wrong. FREE VALUE: R2 settles no wrong bit, one, and two (log 10). -/
opaque manyWrongBit : BitVec 72 → Option (Fin 72)

/-- A stored byte that no write has reached since power-on, or that a cut write left (R16, R17: "unknown").
FREE VALUE (log 11). -/
opaque unknownByte : Nat → Byte

/-- Whether the source of a corrected copy cut by device reset is offered to the fault list before the destination.
FREE VALUE: R17 names both blocks and no order (log 12). -/
opaque cutSourceFirst : BlockNo → BlockNo → Bool

end Config

end Sys2Proof
end

