-- ==== Sys2Proof/Syntax.lean ====
section
/-! DEFINITION. The commands of the block: one constructor per row of spec/opcode_table.json. -/

namespace Sys2Proof

/-- The 21 commands a COMMAND write can name (R165). -/
inductive Command where
  | readBlocks | writeBlocks | copyBlocks | zeroBlocks | verifyBlocks
  | acquireShared | acquireExclusive | upgrade | downgrade | release | renew | queryLock
  | defineLock | undefineLock | breakLock | setRights | setArbiter | setScrub | readFaultList
  | postNote | identify
deriving DecidableEq, Repr

/-- When the block behind the port unit takes a request handed to it (R96; log 4). -/
inductive Handing where
  /-- with nothing between the acceptance and the taking -/
  | takenAtOnce
  /-- at a later HANDED_REQUEST_ARRIVAL; until then the request is outstanding -/
  | outstanding
deriving DecidableEq, Repr

/-- Who requests the pool (R79). -/
inductive Requester where
  | port (p : PortId)
  | scrubber
deriving DecidableEq, Repr

/-- The commands of the ABP418, one per row of the table; `p` is the port whose window, request or entry is meant. -/
inductive Instr where
  /-- a write of COMMAND, code 10h (R121) -/
  | readBlocks (p : PortId)
  /-- a write of COMMAND, code 11h (R123) -/
  | writeBlocks (p : PortId)
  /-- a write of COMMAND, code 12h (R125) -/
  | copyBlocks (p : PortId)
  /-- a write of COMMAND, code 13h (R119) -/
  | zeroBlocks (p : PortId)
  /-- a write of COMMAND, code 14h (R120) -/
  | verifyBlocks (p : PortId)
  /-- a write of COMMAND with a code that is no command code (R95) -/
  | badCommand (p : PortId) (code : Byte)
  /-- a write of COMMAND, code 20h (R42) -/
  | acquireShared (p : PortId) (h : Handing)
  /-- a write of COMMAND, code 21h (R43) -/
  | acquireExclusive (p : PortId) (h : Handing)
  /-- a write of COMMAND, code 22h (R46) -/
  | upgrade (p : PortId) (h : Handing)
  /-- a write of COMMAND, code 23h (R50) -/
  | downgrade (p : PortId) (h : Handing)
  /-- a write of COMMAND, code 24h (R51) -/
  | release (p : PortId) (h : Handing)
  /-- a write of COMMAND, code 25h (R66) -/
  | renew (p : PortId) (h : Handing)
  /-- a write of COMMAND, code 26h (R31) -/
  | queryLock (p : PortId) (h : Handing)
  /-- a write of COMMAND, code 30h (R25) -/
  | defineLock (p : PortId) (h : Handing)
  /-- a write of COMMAND, code 31h (R27) -/
  | undefineLock (p : PortId) (h : Handing)
  /-- a write of COMMAND, code 32h (R29) -/
  | breakLock (p : PortId) (h : Handing)
  /-- a write of COMMAND, code 33h (R155) -/
  | setRights (p : PortId) (h : Handing)
  /-- a write of COMMAND, code 34h (R90) -/
  | setArbiter (p : PortId) (h : Handing)
  /-- a write of COMMAND, code 35h (R151) -/
  | setScrub (p : PortId) (h : Handing)
  /-- a write of COMMAND, code 36h (R158) -/
  | readFaultList (p : PortId)
  /-- a write of COMMAND, code 40h (R140) -/
  | postNote (p : PortId) (h : Handing)
  /-- a write of COMMAND, code 50h (R160) -/
  | identify (p : PortId)
  /-- a write of CONTROL with ABORT set and PRESET clear (R106) -/
  | abort (p : PortId) (v : Byte)
  /-- a write of CONTROL with PRESET set (R111) -/
  | portReset (p : PortId) (v : Byte)
  /-- a read of DATA (R103, R105) -/
  | dataRead (p : PortId)
  /-- a write of DATA (R104, R105) -/
  | dataWrite (p : PortId) (v : Byte)
  /-- a read of STATUS (R99) -/
  | statusRead (p : PortId)
  /-- a write of NOTE_POP (R142) -/
  | notePop (p : PortId) (v : Byte)
  /-- a write of LOST (R77) -/
  | lostWrite (p : PortId) (v : Byte)
  /-- a write of IRQEN (R114) -/
  | irqenWrite (p : PortId) (v : Byte)
  /-- a write at another offset of the window (R98, R163) -/
  | registerWrite (p : PortId) (offset : Fin 16) (v : Byte)
  /-- power-on (R16, R33, R80, R113, R146, R147, R162) -/
  | powerOn
  /-- RESET# asserted (R17, R33, R91, R113, R146, R153, R162) -/
  | deviceReset
  /-- the 1 ms tick of the timebase (R63, R64) -/
  | tick
  /-- the lock table takes the due lease deadline of a holder (R64, R67, R68) -/
  | leaseExpiry (l : LockId) (p : PortId)
  /-- the lock table takes the due wait deadline of a waiter (R64, R71) -/
  | waitTimeout (l : LockId) (p : PortId)
  /-- the scrubber's interval timer runs out (R148) -/
  | scrubRequest
  /-- the arbiter grants the free pool (R82, R83) -/
  | poolGrant
  /-- the load in flight ends (R10) -/
  | loadEnd
  /-- the store in flight ends (R9) -/
  | storeEnd
  /-- the zero in flight ends (R9) -/
  | zeroEnd
  /-- the copy in flight ends (R11) -/
  | copyEnd
  /-- the verify in flight ends (R12) -/
  | verifyEnd
  /-- the scrub in flight ends (R150) -/
  | scrubEnd
  /-- the lock table takes the withdrawal of an aborting port's entry (R57) -/
  | lockEntryWithdrawal (p : PortId)
  /-- the arbiter takes a withdrawal (R85) -/
  | poolRequestWithdrawal (r : Requester)
  /-- the lock table takes a port reset (R34) -/
  | tablePortReset (p : PortId)
  /-- a stored bit changes, bit 0 to 63 of a group's data or 64 to 71 of its check byte (R2) -/
  | storedBitDisturbance (b : BlockNo) (g : Fin 16) (bit : Fin 72)
  /-- the block behind the port unit takes the request handed to it (R96) -/
  | handedRequestArrival (p : PortId)
  /-- that block takes the withdrawal of the request (R109) -/
  | handedRequestWithdrawal (p : PortId)
  /-- a port's pool request arrives at the arbiter (R81) -/
  | poolRequestArrival (p : PortId)
deriving DecidableEq, Repr

end Sys2Proof
end

