-- ==== Sys2Proof/Decode.lean ====
section
/-! DEFINITION. The COMMAND codes of R165, which host's access a command is, and the host's decodeTableWord: the table of this part gives no row bits. -/

namespace Sys2Proof

/-- The code of a command (R165). -/
def Command.code : Command → Byte
  | .readBlocks => 0x10
  | .writeBlocks => 0x11
  | .copyBlocks => 0x12
  | .zeroBlocks => 0x13
  | .verifyBlocks => 0x14
  | .acquireShared => 0x20
  | .acquireExclusive => 0x21
  | .upgrade => 0x22
  | .downgrade => 0x23
  | .release => 0x24
  | .renew => 0x25
  | .queryLock => 0x26
  | .defineLock => 0x30
  | .undefineLock => 0x31
  | .breakLock => 0x32
  | .setRights => 0x33
  | .setArbiter => 0x34
  | .setScrub => 0x35
  | .readFaultList => 0x36
  | .postNote => 0x40
  | .identify => 0x50

/-- The command a byte written to COMMAND names, none where it names none (R95, R165). -/
def commandOfCode (v : Byte) : Option Command :=
  match v.toNat with
  | 0x10 => some .readBlocks
  | 0x11 => some .writeBlocks
  | 0x12 => some .copyBlocks
  | 0x13 => some .zeroBlocks
  | 0x14 => some .verifyBlocks
  | 0x20 => some .acquireShared
  | 0x21 => some .acquireExclusive
  | 0x22 => some .upgrade
  | 0x23 => some .downgrade
  | 0x24 => some .release
  | 0x25 => some .renew
  | 0x26 => some .queryLock
  | 0x30 => some .defineLock
  | 0x31 => some .undefineLock
  | 0x32 => some .breakLock
  | 0x33 => some .setRights
  | 0x34 => some .setArbiter
  | 0x35 => some .setScrub
  | 0x36 => some .readFaultList
  | 0x40 => some .postNote
  | 0x50 => some .identify
  | _ => none

/-- The command whose COMMAND write a term of `Instr` is, none for a term that is no COMMAND write of a command code. -/
def Instr.command? : Instr → Option Command
  | .readBlocks _ => some .readBlocks
  | .writeBlocks _ => some .writeBlocks
  | .copyBlocks _ => some .copyBlocks
  | .zeroBlocks _ => some .zeroBlocks
  | .verifyBlocks _ => some .verifyBlocks
  | .badCommand _ v => commandOfCode v
  | .acquireShared _ _ => some .acquireShared
  | .acquireExclusive _ _ => some .acquireExclusive
  | .upgrade _ _ => some .upgrade
  | .downgrade _ _ => some .downgrade
  | .release _ _ => some .release
  | .renew _ _ => some .renew
  | .queryLock _ _ => some .queryLock
  | .defineLock _ _ => some .defineLock
  | .undefineLock _ _ => some .undefineLock
  | .breakLock _ _ => some .breakLock
  | .setRights _ _ => some .setRights
  | .setArbiter _ _ => some .setArbiter
  | .setScrub _ _ => some .setScrub
  | .readFaultList _ => some .readFaultList
  | .postNote _ _ => some .postNote
  | .identify _ => some .identify
  | .abort _ _ | .portReset _ _ | .dataRead _ | .dataWrite _ _ | .statusRead _ | .notePop _ _ | .lostWrite _ _
  | .irqenWrite _ _ | .registerWrite _ _ _ | .powerOn | .deviceReset | .tick | .leaseExpiry _ _ | .waitTimeout _ _
  | .scrubRequest | .poolGrant | .loadEnd | .storeEnd | .zeroEnd | .copyEnd | .verifyEnd | .scrubEnd
  | .lockEntryWithdrawal _ | .poolRequestWithdrawal _ | .tablePortReset _ | .storedBitDisturbance _ _ _
  | .handedRequestArrival _ | .handedRequestWithdrawal _ | .poolRequestArrival _ => none

/-- The host whose access a command is, none for the events of other agents. -/
def Instr.hostPort : Instr → Option PortId
  | .readBlocks p | .writeBlocks p | .copyBlocks p | .zeroBlocks p | .verifyBlocks p | .badCommand p _ => some p
  | .acquireShared p _ | .acquireExclusive p _ | .upgrade p _ | .downgrade p _ | .release p _ | .renew p _ => some p
  | .queryLock p _ | .defineLock p _ | .undefineLock p _ | .breakLock p _ => some p
  | .setRights p _ | .setArbiter p _ | .setScrub p _ | .readFaultList p | .postNote p _ | .identify p => some p
  | .abort p _ | .portReset p _ | .dataRead p | .dataWrite p _ | .statusRead p | .notePop p _ | .lostWrite p _ => some p
  | .irqenWrite p _ | .registerWrite p _ _ => some p
  | .powerOn | .deviceReset | .tick | .leaseExpiry _ _ | .waitTimeout _ _ | .scrubRequest => none
  | .poolGrant | .loadEnd | .storeEnd | .zeroEnd | .copyEnd | .verifyEnd | .scrubEnd => none
  | .lockEntryWithdrawal _ | .poolRequestWithdrawal _ | .tablePortReset _ | .storedBitDisturbance _ _ _ => none
  | .handedRequestArrival _ | .handedRequestWithdrawal _ | .poolRequestArrival _ => none

/-- The byte a COMMAND write writes, none for a command that is none of the 22 COMMAND writes. -/
def Instr.codeWritten (i : Instr) : Option Byte :=
  match i with
  | .badCommand _ v => some v
  | i => i.command?.map Command.code

/-- The command a word of the table's bits spells. spec/opcode_table.json gives no row bits, so no word spells one
(log 14). -/
def decodeTableWord (_nbits _w : Nat) : Option Instr := none

end Sys2Proof
end

