-- ==== Sys2Proof/Machine/State.lean ====
section
/-! DEFINITION. The state of the ABP418, every piece the manual names, as plain data; and its state after power-on. -/

namespace Sys2Proof.Machine

/-- The six port states (R92). -/
inductive PortState where
  | ready | exec | waitLock | dataIn | dataOut | aborting
deriving DecidableEq, Repr

/-- The error kinds (R100, R165). -/
inductive ErrorKind where
  | none | badCommand | badParam | noRight | notDefined | defined | overlap | lockBusy | alreadyHeld | notHeld
  | wouldWait | waitTimeout | deadlock | upgradeConflict | holdLost | access | blank | uncorrectable | noteFull | aborted
deriving DecidableEq, Repr

/-- How a lock is held (R18, R19). -/
inductive LockMode where
  | free | shared | exclusive
deriving DecidableEq, Repr

/-- What a waiter asks for (R18). -/
inductive Wanted where
  | shared | exclusive | upgrade
deriving DecidableEq, Repr

/-- A port's hold on a lock with the tick its lease falls, absent while the lease length is 0 (R18, R65). -/
structure Hold where
  lease : Option Tick
deriving DecidableEq, Repr

/-- An entry of a waiter queue with the tick its wait runs out, absent for a wait limit of 255 (R18, R70). -/
structure Waiter where
  port : PortId
  want : Wanted
  deadline : Option Tick
deriving DecidableEq, Repr

/-- A lock record (R18). `holders` is the holder set together with each holder's lease deadline. -/
structure Lock where
  defined : Bool
  first : BlockNo
  count : Byte
  lease : Byte
  mode : LockMode
  holders : Vector (Option Hold) 4
  queue : List Waiter
deriving DecidableEq, Repr

/-- The states of the block state map (1.2). -/
inductive BlockState where
  | unwritten | good | poisoned
deriving DecidableEq, Repr

/-- The kinds of pool transfer (R4). -/
inductive TransferKind where
  | load | store | copy | zero | verify | scrub
deriving DecidableEq, Repr

/-- The read outcome settled at a transfer's start: the classes of the 16 groups of a GOOD block (R5), or what the state
of another block gives without a check (R6). -/
inductive ReadOutcome where
  | checked (classes : Vector GroupClass 16)
  | blank
  | poisoned
deriving DecidableEq, Repr

/-- A pool request of a port (R79). -/
structure PoolRequest where
  kind : TransferKind
  block : BlockNo
  dest : Option BlockNo
deriving DecidableEq, Repr

/-- The transfer in flight (R4). `data` are the bytes it moves, settled at its start: the staged bytes of a store (R9),
the bytes read, corrected where the code corrects them, of a kind that reads (R5). -/
structure Transfer where
  requester : Requester
  kind : TransferKind
  block : BlockNo
  dest : Option BlockNo
  read : Option ReadOutcome
  data : Bytes
deriving DecidableEq, Repr

/-- A request handed to the lock table, a note queue, the configuration, the arbiter or the scrubber, with its arguments
as they stood at acceptance (R96). -/
inductive HandedRequest where
  | acquireShared (l : LockId) (limit : Byte)
  | acquireExclusive (l : LockId) (limit : Byte)
  | upgrade (l : LockId) (limit : Byte)
  | downgrade (l : LockId)
  | release (l : LockId)
  | renew (l : LockId)
  | queryLock (l : LockId)
  | defineLock (l : LockId) (first : BlockNo) (count lease : Byte)
  | undefineLock (l : LockId)
  | breakLock (l : LockId)
  | setRights (target : PortId) (give : Bool)
  | setArbiter (fixed : Bool)
  | setScrub (interval : Byte)
  | postNote (target : PortId) (code tag : Byte)
deriving DecidableEq, Repr

/-- A request of a port unit that has not yet reached its block (R92). -/
inductive Outgoing where
  | handed (r : HandedRequest)
  | pool (r : PoolRequest)
deriving DecidableEq, Repr

/-- The held action (R92): what a port unit does once its withdrawal is taken or its transfer ends. -/
inductive HeldAction where
  | abort | portReset
deriving DecidableEq, Repr

/-- The direction of a block command (R116, R117). -/
inductive Direction where
  | ascending | descending
deriving DecidableEq, Repr

/-- A command in progress (R92, R116). -/
structure Running where
  command : Command
  direction : Direction
deriving DecidableEq, Repr

/-- A note (R137). -/
structure Note where
  sender : PortId
  code : Byte
  tag : Byte
deriving DecidableEq, Repr

/-- A port unit with its note queue (R92, R98 to R102, R114, R137). -/
structure Port where
  state : PortState
  param : Byte
  count : Byte
  /-- BLOCK: bit 0 of BLOCK_H, then BLOCK_L (R98) -/
  block : BlockNo
  /-- DEST: bit 0 of DEST_H, then DEST_L (R98) -/
  dest : BlockNo
  lock : Byte
  done : Bool
  kind : ErrorKind
  rej : Bool
  corr : Bool
  irqen : Byte
  staging : Bytes
  index : Nat
  /-- the lost set: entry `l` is set while lock id `l` is in it (R76) -/
  lost : Vector Bool 32
  /-- the note queue, head first (R137) -/
  notes : List Note
  running : Option Running
  outgoing : Option Outgoing
  /-- the held action; while a withdrawal is outstanding, the action it stands for (R92; log 15) -/
  held : Option HeldAction
  /-- PnD7–PnD0 as the last read of DATA or STATUS drove them (log 1) -/
  dataBus : Byte
deriving DecidableEq, Repr

/-- The pool's stored bytes as (address, byte) cells, addresses rising; a byte not listed is unknown (R16; log 9, 11). -/
abbrev Memory := List Host.Cell

/-- The pool controller (file 01). -/
structure Pool where
  /-- stored data and check bytes (R1) -/
  mem : Memory
  /-- the stored bits that are not as they were written, by number, rising (R2; log 10) -/
  wrong : List Nat
  /-- the block state map (R3) -/
  map : Vector BlockState 512
  /-- the fault list, oldest first (R13) -/
  faults : List BlockNo
  /-- the overflow mark (R13) -/
  overflow : Bool
  /-- the corrected-group count (R14) -/
  corrected : BitVec 16
  /-- none: IDLE; else the transfer in flight (R4) -/
  transfer : Option Transfer
deriving DecidableEq, Repr

/-- The arbiter modes (R80). -/
inductive ArbiterMode where
  | rotate | fixed
deriving DecidableEq, Repr

/-- The pool arbiter (R80). -/
structure Arbiter where
  mode : ArbiterMode
  pointer : PortId
  scrubWait : Nat
  waiting : Vector (Option PoolRequest) 4
  /-- the block of the waiting scrub request -/
  scrubReq : Option BlockNo
deriving DecidableEq, Repr

/-- The phases of the scrubber (R147). -/
inductive ScrubPhase where
  | off | timing | requested | scrubbing
deriving DecidableEq, Repr

/-- A running interval timer: the ticks since it was started, and the number at which it runs out (R147, R148; log 23). -/
structure ScrubTimer where
  elapsed : Nat
  runsOutAt : Nat
deriving DecidableEq, Repr

/-- The patrol scrubber (R147). -/
structure Scrubber where
  interval : Byte
  position : BlockNo
  phase : ScrubPhase
  timer : Option ScrubTimer
deriving DecidableEq, Repr

/-- The rights table (R154): whether ports 1, 2 and 3 hold SETUP. Port 0 has no entry. -/
structure Rights where
  port1 : Bool
  port2 : Bool
  port3 : Bool
deriving DecidableEq, Repr

/-- The ABP418, and the queue of the commands that wait for it. -/
structure State where
  ports : Vector Port 4
  locks : Vector Lock 32
  pool : Pool
  arbiter : Arbiter
  scrubber : Scrubber
  rights : Rights
  /-- the ticks since power-on or device reset (R63) -/
  now : Tick
  /-- the commands that wait, first in, first out -/
  pending : List Instr
deriving DecidableEq, Repr

/-- Why the machine stops with a fault. The manual names no condition that stops the part (log 18). -/
inductive Fault where
  /-- Raised by no meaning: every error of the manual is a value of ERROR, of the block state map, of the fault list or of
  a lost set. It stands here so that the type has a value. Safe: nothing stops. -/
  | partStopped
deriving DecidableEq, Repr

/-- Why a command has no meaning. -/
inductive Refusal where
  /-- Raised by an arm of exec whose command is not modelled; there is none. Safe: the machine stops. -/
  | notModelled (mnemonic : String)
deriving DecidableEq, Repr

/-- The values a port unit takes at power-on, at device reset and at its port reset (R102, R113, R145, R146). -/
def Port.reset : Port where
  state := .ready
  param := 0
  count := 0
  block := 0
  dest := 0
  lock := 0
  done := false
  kind := .none
  rej := false
  corr := false
  irqen := 0
  staging := Vector.replicate 128 0
  index := 0
  lost := Vector.replicate 32 false
  notes := []
  running := none
  outgoing := none
  held := none
  dataBus := 0

/-- The values a lock record takes at power-on and at device reset (R33). -/
def Lock.reset : Lock where
  defined := false
  first := 0
  count := 0
  lease := 0
  mode := .free
  holders := Vector.replicate 4 none
  queue := []

/-- The values of the pool controller at power-on (R16). -/
def Pool.powerOn : Pool where
  mem := []
  wrong := []
  map := Vector.replicate 512 .unwritten
  faults := []
  overflow := false
  corrected := 0
  transfer := none

/-- The values of the arbiter at power-on and at device reset (R80). -/
def Arbiter.reset : Arbiter where
  mode := .rotate
  pointer := 3
  scrubWait := 0
  waiting := Vector.replicate 4 none
  scrubReq := none

/-- The values of the scrubber at power-on and at device reset (R147). -/
def Scrubber.reset : Scrubber where
  interval := 0
  position := 0
  phase := .off
  timer := none

/-- The rights table at power-on and at device reset (R154). -/
def Rights.reset : Rights where
  port1 := false
  port2 := false
  port3 := false

/-- The part right after power-on, with no command waiting (R16, R33, R80, R113, R146, R147, R154; log 27). -/
def State.reset : State where
  ports := Vector.replicate 4 Port.reset
  locks := Vector.replicate 32 Lock.reset
  pool := Pool.powerOn
  arbiter := Arbiter.reset
  scrubber := Scrubber.reset
  rights := Rights.reset
  now := 0
  pending := []

end Sys2Proof.Machine
end

