-- ==== Sys2Proof/Machine/Memory.lean ====
section
/-! DEFINITION. The pool's stored bytes as a memory of cells: reading a byte, writing, forgetting and disturbing bytes. -/

namespace Sys2Proof.Machine

/-- The byte stored at an address, none where it is unknown (R16; log 11). -/
def Memory.byteAt? : Memory → Nat → Option Byte
  | [], _ => none
  | c :: m, a => if c.1 = a then some c.2 else Memory.byteAt? m a

/-- The cells of the bytes `vs` stored from address `a` on. -/
def Memory.cells (a : Nat) : List Byte → Memory
  | [] => []
  | v :: vs => (a, v) :: Memory.cells (a + 1) vs

/-- Store the bytes `vs` from address `a` on. -/
def Memory.writeRun (m : Memory) (a : Nat) (vs : List Byte) : Memory :=
  m.filter (fun c => c.1 < a) ++ (Memory.cells a vs ++ m.filter (fun c => a + vs.length ≤ c.1))

/-- Forget the `n` bytes from address `a` on: they become unknown (R17). -/
def Memory.eraseRun (m : Memory) (a n : Nat) : Memory :=
  m.filter (fun c => c.1 < a || a + n ≤ c.1)

/-- Change bit `k` of the byte stored at address `a` (R2). -/
def Memory.flipBit (m : Memory) (a k : Nat) : Memory :=
  m.map fun c => if c.1 = a then (c.1, c.2 ^^^ (1#8 <<< k)) else c

/-- The canonical form: addresses strictly rising, each a byte of the pool's storage. -/
abbrev Memory.wf (m : Memory) : Prop :=
  m.Pairwise (fun c d => c.1 < d.1) ∧ ∀ c ∈ m, c.1 < 512 * Config.blockStorage

end Sys2Proof.Machine
end

