-- ==== Sys2Proof/Machine/PoolStore.lean ====
section
/-! DEFINITION. What the pool controller does to the pool data, the block state map, the fault list and the
corrected-group count (file 01). -/

namespace Sys2Proof.Machine

/-- Where byte `j` of a block's storage lies: data byte `j` for `j` under 128, the check byte of group `j - 128` from
there (R1; log 9). -/
def storeAddr (b : BlockNo) (j : Nat) : Nat := b.toNat * Config.blockStorage + j

/-- Eight bytes as one word, byte 0 lowest. -/
def wordOf (f : Nat → Byte) : BitVec 64 := f 7 ++ f 6 ++ f 5 ++ f 4 ++ f 3 ++ f 2 ++ f 1 ++ f 0

/-- The 16 check bytes of a block's data, computed whenever it is written (1.1). -/
def checkBytes (data : Bytes) : List Byte :=
  (List.range 16).map fun g => Config.checkByte (wordOf fun i => data[8 * g + i]?.getD 0)

/-- A byte of the storage of a block, a free value where it is unknown (R16; log 11). -/
def Pool.stored (P : Pool) (b : BlockNo) (j : Nat) : Byte :=
  (Memory.byteAt? P.mem (storeAddr b j)).getD (Config.unknownByte (storeAddr b j))

/-- The 72 stored bits of a group: its data, and its check byte above them (R2). -/
def Pool.storedGroup (P : Pool) (b : BlockNo) (g : Nat) : BitVec 72 :=
  P.stored b (128 + g) ++ wordOf fun i => P.stored b (8 * g + i)

/-- The number of a stored bit in `Pool.wrong` (log 10). -/
def bitNumber (b : BlockNo) (g k : Nat) : Nat := (b.toNat * 16 + g) * 72 + k

/-- The wrong bits of a group, each 0 to 71. -/
def Pool.wrongBits (P : Pool) (b : BlockNo) (g : Nat) : List Nat :=
  P.wrong.filterMap fun n => if n / 72 = b.toNat * 16 + g then some (n % 72) else none

/-- Whether the data and the check byte of a stored group agree (R2): the check byte is the one of the data. -/
def groupAgrees (w : BitVec 72) : Bool := w.extractLsb' 64 8 = Config.checkByte (w.extractLsb' 0 64)

/-- The bit to which the code attributes a disagreement with three wrong bits or more: a free value, but a bit whose change
makes data and check byte agree (R2; log 10). -/
def attributedBit (w : BitVec 72) : Option (Fin 72) :=
  (Config.manyWrongBit w).filter fun k => groupAgrees (w ^^^ (1#72 <<< k.val))

/-- The class of a group (R2). A group without wrong bits is as a write left it, so that data and check byte agree; one wrong
bit is identified, and two are beyond correction. With three and more, the comparison of data and check byte and the code
decide (log 10). -/
def Pool.groupClass (P : Pool) (b : BlockNo) (g : Nat) : GroupClass :=
  match P.wrongBits b g with
  | [] => .clean
  | [_] => .correctable
  | [_, _] => .uncorrectable
  | _ =>
    if groupAgrees (P.storedGroup b g) then .clean
    else if (attributedBit (P.storedGroup b g)).isSome then .correctable
    else .uncorrectable

/-- The bit the code identifies in a group classed correctable (R2). -/
def Pool.identifiedBit (P : Pool) (b : BlockNo) (g : Nat) : Nat :=
  match P.wrongBits b g with
  | [k] => k
  | _ => ((attributedBit (P.storedGroup b g)).getD 0).val

/-- A data byte as a read uses it: as stored, with the identified bit of a correctable group put right (R2, R5). -/
def Pool.usedByte (P : Pool) (b : BlockNo) (j : Nat) : Byte :=
  if P.groupClass b (j / 8) = .correctable ∧ P.identifiedBit b (j / 8) / 8 = j % 8 then
    P.stored b j ^^^ (1#8 <<< (P.identifiedBit b (j / 8) % 8))
  else P.stored b j

/-- The state of a block in the map (R3). -/
def Pool.stateOf (P : Pool) (b : BlockNo) : BlockState := P.map[b.toNat]

/-- The number of blocks in a state (R160). -/
def Pool.countState (P : Pool) (st : BlockState) : Nat := (P.map.toList.filter (· = st)).length

/-- The read of a block at a transfer's start: its outcome, and the bytes it yields (R5, R6). Where the read fails it
yields no data, and the bytes named are used by nothing (log 28). -/
def Pool.readBlock (P : Pool) (b : BlockNo) : ReadOutcome × Bytes :=
  match P.stateOf b with
  | .unwritten => (.blank, Vector.replicate 128 0)
  | .poisoned => (.poisoned, Vector.replicate 128 0)
  | .good => (.checked (tabulate 16 (P.groupClass b)), tabulate 128 (P.usedByte b))

/-- Write a whole block with fresh check bytes: it becomes GOOD and its fault list entry, if any, leaves
(R3, R7, R9, R11, R13). -/
def Pool.writeBlock (P : Pool) (b : BlockNo) (data : Bytes) : Pool :=
  { P with
    mem := Memory.writeRun P.mem (storeAddr b 0) (data.toList ++ checkBytes data)
    wrong := P.wrong.filter fun n => n / (16 * 72) ≠ b.toNat
    map := P.map.set b.toNat .good
    faults := P.faults.filter fun c => c ≠ b }

/-- Offer a block to the fault list (R8, R13). -/
def Pool.offer (P : Pool) (b : BlockNo) : Pool :=
  if b ∈ P.faults then P
  else if P.faults.length < Config.faultListSize then { P with faults := P.faults ++ [b] }
  else { P with overflow := true }

/-- A block becomes POISONED and is offered to the fault list (R3, R8). -/
def Pool.poison (P : Pool) (b : BlockNo) : Pool :=
  Pool.offer { P with map := P.map.set b.toNat .poisoned } b

/-- A block that a device reset cut in writing: POISONED, offered to the fault list, its contents unknown (R17). -/
def Pool.poisonCut (P : Pool) (b : BlockNo) : Pool :=
  Pool.poison
    { P with
      mem := Memory.eraseRun P.mem (storeAddr b 0) Config.blockStorage
      wrong := P.wrong.filter fun n => n / (16 * 72) ≠ b.toNat } b

/-- The corrected-group count rises by `n` and stays at 65,535 (R14). -/
def Pool.countCorrected (P : Pool) (n : Nat) : Pool :=
  { P with corrected := if P.corrected.toNat + n ≥ 65535 then 65535 else P.corrected + BitVec.ofNat 16 n }

/-- What a read outcome comes to (R5, R6). -/
inductive ReadResult where
  /-- the data is used as stored -/
  | clean
  /-- `n` groups were corrected -/
  | corrected (n : Nat)
  /-- a group of a GOOD block is uncorrectable -/
  | foundUncorrectable
  /-- the block was UNWRITTEN -/
  | blank
  /-- the block was POISONED -/
  | poisoned
deriving DecidableEq, Repr

/-- The whole read, from its groups (R5) or from the block's state (R6). -/
def ReadOutcome.result : ReadOutcome → ReadResult
  | .blank => .blank
  | .poisoned => .poisoned
  | .checked cs =>
    if GroupClass.uncorrectable ∈ cs.toList then .foundUncorrectable
    else match (cs.toList.filter (· = GroupClass.correctable)).length with
      | 0 => .clean
      | n + 1 => .corrected (n + 1)

/-- What the pool controller hands to a port at the end of a transfer (R15). -/
inductive TransferResult where
  | success (mark : Bool)
  | failure (kind : ErrorKind)
deriving DecidableEq, Repr

/-- The read result of a transfer; store and zero read nothing (R9). -/
def Transfer.readResult (t : Transfer) : ReadResult :=
  match t.read with
  | none => .clean
  | some o => o.result

/-- The result of a transfer (R15). -/
def Transfer.result (t : Transfer) : TransferResult :=
  match t.readResult with
  | .clean => .success false
  | .corrected _ => .success true
  | .foundUncorrectable => .failure .uncorrectable
  | .poisoned => .failure .uncorrectable
  | .blank => .failure .blank

/-- The effects of a read at the end of its transfer: write-back and count, or poisoning, or nothing (R5, R6, R7, R8, R14). -/
def Pool.endRead (P : Pool) (t : Transfer) : Pool :=
  match t.readResult with
  | .clean => P
  | .corrected n => (P.writeBlock t.block t.data).countCorrected n
  | .foundUncorrectable => P.poison t.block
  | .blank => P
  | .poisoned => P

/-- The effects of a copy at its end: those of its read, and on success the write of the destination (R11). -/
def Pool.endCopy (P : Pool) (t : Transfer) : Pool :=
  match t.result, t.dest with
  | .success _, some d => (P.endRead t).writeBlock d t.data
  | _, _ => P.endRead t

/-- The write set of a transfer (R4), in the order in which a cut offers its blocks to the fault list (R17; log 12). -/
def Transfer.writeSet (t : Transfer) : List BlockNo :=
  match t.kind with
  | .store | .zero => [t.block]
  | .copy =>
    match t.result, t.dest with
    | .success false, some d => [d]
    | .success true, some d => if Config.cutSourceFirst t.block d then [t.block, d] else [d, t.block]
    | .success true, none => [t.block]
    | _, _ => []
  | .load | .verify | .scrub =>
    match t.result with
    | .success true => [t.block]
    | _ => []

/-- Device reset at the pool controller: a transfer in flight is cut and every block of its write set poisoned; all else
is kept (R17). -/
def Pool.deviceReset (P : Pool) : Pool :=
  match P.transfer with
  | none => P
  | some t => { t.writeSet.foldl Pool.poisonCut P with transfer := none }

/-- A stored bit changes (R2): bit `k` under 64 is a bit of the group's data, the others are its check byte's. An unknown
byte stays unknown. -/
def Pool.disturb (P : Pool) (b : BlockNo) (g : Fin 16) (k : Fin 72) : Pool :=
  let a := storeAddr b (if k.val < 64 then 8 * g.val + k.val / 8 else 128 + g.val)
  match Memory.byteAt? P.mem a with
  | none => P
  | some _ => { P with mem := Memory.flipBit P.mem a (k.val % 8), wrong := toggle (bitNumber b g k) P.wrong }
where
  /-- Enter a number in a rising list, or take it out if it is there. -/
  toggle (n : Nat) : List Nat → List Nat
    | [] => [n]
    | x :: xs => if n < x then n :: x :: xs else if n = x then xs else x :: toggle n xs

end Sys2Proof.Machine
end

