-- ==== Sys2Proof/Machine/Ops.lean ====
section
/-! DEFINITION. Named operations over port units, lock records, deadlines, lost sets and note queues. -/

namespace Sys2Proof.Machine

/-! ## Reaching a port and a lock -/

/-- Port unit `p`. -/
def State.port (s : State) (p : PortId) : Port := s.ports[p]

/-- Change port unit `p`. -/
def State.onPort (s : State) (p : PortId) (f : Port → Port) : State :=
  { s with ports := s.ports.set p (f (s.port p)) }

/-- Lock record `l`. -/
def State.lockAt (s : State) (l : LockId) : Lock := s.locks[l]

/-- Put a lock record. -/
def State.setLock (s : State) (l : LockId) (k : Lock) : State := { s with locks := s.locks.set l k }

/-! ## A port's command -/

/-- The end of a command (R101): the kind is set, DONE is set, the port is READY, and nothing of the command is left. -/
def Port.complete (q : Port) (k : ErrorKind) : Port :=
  { q with state := .ready, kind := k, done := true, running := none, outgoing := none, held := none }

/-- The command of port `p` ends with a kind. -/
def State.complete (s : State) (p : PortId) (k : ErrorKind) : State := s.onPort p fun q => q.complete k

/-- The commands of several ports end with a kind. -/
def State.completeAll (s : State) (ps : List PortId) (k : ErrorKind) : State :=
  ps.foldl (fun s p => s.complete p k) s

/-- Discard staging (R102): the index returns to 0; the bytes stay. -/
def Port.discard (q : Port) : Port := { q with index := 0 }

/-- Open a data phase (R102). -/
def Port.openPhase (q : Port) (st : PortState) : Port := { q with state := st, index := 0 }

/-- Offer 128 bytes to the host (R102, R103). -/
def Port.offerBytes (q : Port) (bs : Bytes) : Port := { q with staging := bs, state := .dataIn, index := 0 }

/-- A block or pair is completed (R116): COUNT falls by one, and unless it has reached 0, BLOCK, and DEST for a copy,
move one step in the command's direction. -/
def Port.blockCompleted (q : Port) : Port :=
  let n := q.count - 1
  if n = 0 then { q with count := n }
  else
    match q.running with
    | some ⟨.copyBlocks, .descending⟩ => { q with count := n, block := q.block - 1, dest := q.dest - 1 }
    | some ⟨.copyBlocks, .ascending⟩ => { q with count := n, block := q.block + 1, dest := q.dest + 1 }
    | _ => { q with count := n, block := q.block + 1 }

/-- The pool request of a block command for the block or pair its registers name (R79, R118, R121, R123). -/
def Port.poolRequest (q : Port) : PoolRequest :=
  match q.running with
  | some ⟨.writeBlocks, _⟩ => ⟨.store, q.block, none⟩
  | some ⟨.copyBlocks, _⟩ => ⟨.copy, q.block, some q.dest⟩
  | some ⟨.zeroBlocks, _⟩ => ⟨.zero, q.block, none⟩
  | some ⟨.verifyBlocks, _⟩ => ⟨.verify, q.block, none⟩
  | _ => ⟨.load, q.block, none⟩

/-- Make that request: the port is in EXEC and the request is on its way to the arbiter (R87, R118; log 5). -/
def Port.requestBlock (q : Port) : Port := { q with state := .exec, outgoing := some (.pool q.poolRequest) }

/-- A command that moves data goes on: the next request, or the next DATA_OUT of WRITE BLOCKS (R118, R121, R123). -/
def Port.nextBlock (q : Port) : Port :=
  match q.running with
  | some ⟨.writeBlocks, _⟩ => q.openPhase .dataOut
  | _ => q.requestBlock

/-- Complete a block and go on, or end the command with NONE after the last (R116, R118, R121, R123). -/
def Port.finishBlock (q : Port) : Port :=
  let r := q.blockCompleted
  if r.count = 0 then r.complete .none else r.nextBlock

/-! ## Time -/

/-- Whether an event is taken as part of a tick or between two ticks (R63; log 8). -/
inductive Moment where
  | atTick | betweenTicks
deriving DecidableEq, Repr

/-- The ticks from now to the first tick at or after `ms` milliseconds (R63, R148). -/
def ticksUntil (m : Moment) (ms : Nat) : Nat :=
  match m with
  | .atTick => ms
  | .betweenTicks => ms + 1

/-- The deadline of `n` units of 10 ms started now (R63). -/
def State.deadline (s : State) (m : Moment) (n : Byte) : Tick := s.now + ticksUntil m (10 * n.toNat)

/-- The lease deadline of a hold granted or renewed now on a lock of lease length `n` (R65). -/
def State.leaseDeadline (s : State) (m : Moment) (n : Byte) : Option Tick :=
  if n = 0 then none else some (s.deadline m n)

/-- The wait deadline of an entry placed now with wait limit `n` (R70). -/
def State.waitDeadline (s : State) (m : Moment) (n : Byte) : Option Tick :=
  if n = 255 then none else some (s.deadline m n)

/-- A deadline that stands has fallen: its tick has come (R64; log 8). -/
def State.isDue (s : State) (d : Option Tick) : Bool :=
  match d with
  | none => false
  | some t => t ≤ s.now

/-! ## Lost sets and notes -/

/-- Enter a lock id in a lost set (R76). -/
def Port.addLost (q : Port) (l : LockId) : Port := { q with lost := q.lost.set l true }

/-- Enter a lock id in the lost set of each of several ports (R29, R67). -/
def State.addLostAll (s : State) (ps : List PortId) (l : LockId) : State :=
  ps.foldl (fun s p => s.onPort p fun q => q.addLost l) s

/-- Remove a lock id from a lost set (R77). -/
def Port.removeLost (q : Port) (l : LockId) : Port := { q with lost := q.lost.set l false }

/-- The lowest id of a lost set (R77). -/
def Port.lowestLost (q : Port) : Option LockId := allLocks.find? fun l => q.lost[l]

/-- Append a note (R140). -/
def Port.appendNote (q : Port) (n : Note) : Port := { q with notes := q.notes ++ [n] }

/-- Remove the head note, if there is one (R142). -/
def Port.popNote (q : Port) : Port := { q with notes := q.notes.tail }

/-! ## Rights -/

/-- Whether a port holds the SETUP right (R154): port 0 always. -/
def Rights.holds (r : Rights) (p : PortId) : Bool :=
  match p with
  | 0 => true
  | 1 => r.port1
  | 2 => r.port2
  | 3 => r.port3

/-- Give or take the SETUP right of a port (R155); port 0 has no entry. -/
def Rights.give (r : Rights) (p : PortId) (v : Bool) : Rights :=
  match p with
  | 0 => r
  | 1 => { r with port1 := v }
  | 2 => { r with port2 := v }
  | 3 => { r with port3 := v }

end Sys2Proof.Machine
end

