-- ==== Sys2Proof/Machine/Flags.lean ====
section
/-! DEFINITION. STATUS, ERROR and the interrupt output of a port: every bit computed from its source (R99, R100, R114,
R164, R165). -/

namespace Sys2Proof.Machine

/-- The code of an error kind (R165). -/
def ErrorKind.code : ErrorKind → BitVec 5
  | .none => 0x00
  | .badCommand => 0x01
  | .badParam => 0x02
  | .noRight => 0x03
  | .notDefined => 0x04
  | .defined => 0x05
  | .overlap => 0x06
  | .lockBusy => 0x07
  | .alreadyHeld => 0x08
  | .notHeld => 0x09
  | .wouldWait => 0x0A
  | .waitTimeout => 0x0B
  | .deadlock => 0x0C
  | .upgradeConflict => 0x0D
  | .holdLost => 0x0E
  | .access => 0x0F
  | .blank => 0x10
  | .uncorrectable => 0x11
  | .noteFull => 0x12
  | .aborted => 0x13

/-- STATUS.BUSY (R92, R99). -/
def Port.busy (q : Port) : Bool := q.state = .exec ∨ q.state = .waitLock ∨ q.state = .aborting

/-- STATUS.DATA (R92, R99). -/
def Port.dataPhase (q : Port) : Bool := q.state = .dataIn ∨ q.state = .dataOut

/-- STATUS.WAIT (R92, R99). -/
def Port.waits (q : Port) : Bool := q.state = .waitLock

/-- STATUS.ERR (R99, R100). -/
def Port.err (q : Port) : Bool := q.kind ≠ .none

/-- STATUS.NOTE (R99, R143). -/
def Port.noteWaits (q : Port) : Bool := !q.notes.isEmpty

/-- STATUS.LOST (R77, R99). -/
def Port.lostAny (q : Port) : Bool := q.lowestLost.isSome

/-- STATUS.FLT of port `p` (R99, R157). -/
def State.flt (s : State) (p : PortId) : Bool := !s.pool.faults.isEmpty && s.rights.holds p

/-- The STATUS byte of port `p`, which ALTSTATUS returns too (R99, R164). -/
def State.status (s : State) (p : PortId) : Byte :=
  let q := s.port p
  BitVec.ofBool q.busy ++ BitVec.ofBool q.dataPhase ++ BitVec.ofBool q.waits ++ BitVec.ofBool q.done ++
    BitVec.ofBool q.err ++ BitVec.ofBool q.noteWaits ++ BitVec.ofBool q.lostAny ++ BitVec.ofBool (s.flt p)

/-- The ERROR byte: CORR, REJ, a 0, the kind (R100, R164). -/
def Port.error (q : Port) : Byte :=
  BitVec.ofBool q.corr ++ BitVec.ofBool q.rej ++ 0#1 ++ q.kind.code

/-- What a write of IRQEN stores: bits 7, 5 and 3 are 0 (R114). -/
def irqMask (v : Byte) : Byte := v &&& 0x57

/-- Whether PnIRQ# is asserted: some STATUS bit is set whose IRQEN bit is set (R114). -/
def State.irq (s : State) (p : PortId) : Bool := (s.status p &&& (s.port p).irqen) ≠ 0

end Sys2Proof.Machine
end

