-- ==== Sys2Proof/Machine/LockTable.lean ====
section
/-! DEFINITION. The lock table's shared operations: holders and waiters of one record, the grant rule, re-examination,
coverage and the access check, the waits-for relation, due deadlines, a port reset at the table (files 02, 03, 04). -/

namespace Sys2Proof.Machine

/-! ## One record -/

/-- Whether a port is in the holder set (R18). -/
def Lock.holds (k : Lock) (p : PortId) : Bool := k.holders[p].isSome

/-- The holder set, lowest port first. -/
def Lock.holderList (k : Lock) : List PortId := allPorts.filter fun p => k.holds p

/-- Whether a port stands in the waiter queue. -/
def Lock.waits (k : Lock) (p : PortId) : Bool := k.queue.any fun w => w.port = p

/-- Whether a port's UPGRADE entry stands in the queue. -/
def Lock.upgrades (k : Lock) (p : PortId) : Bool := k.queue.any fun w => w.port = p ∧ w.want = .upgrade

/-- A port leaves the holder set, its lease deadline with it; without holders the mode is FREE (R19, R34, R51, R67). -/
def Lock.dropHold (k : Lock) (p : PortId) : Lock :=
  let h := k.holders.set p none
  { k with holders := h, mode := if allPorts.all (fun i => h[i].isNone) then .free else k.mode }

/-- A port's entry leaves the queue; those behind it close up (R56). -/
def Lock.removeEntry (k : Lock) (p : PortId) : Lock := { k with queue := k.queue.filter fun w => w.port ≠ p }

/-- The mode a grant of a wanted mode leaves (R38, R39). -/
def Wanted.mode : Wanted → LockMode
  | .shared => .shared
  | .exclusive => .exclusive
  | .upgrade => .exclusive

/-- A grant: the port is a holder with its lease started, and the mode is the one granted (R39, R47). -/
def Lock.grant (k : Lock) (p : PortId) (w : Wanted) (lease : Option Tick) : Lock :=
  { k with holders := k.holders.set p (some ⟨lease⟩), mode := w.mode }

/-- The grant rule: whether a head waiter is grantable (R38). -/
def Lock.grantable (k : Lock) (w : Waiter) : Bool :=
  match w.want with
  | .exclusive => k.holderList = []
  | .upgrade => k.holderList = [w.port]
  | .shared => k.mode ≠ .exclusive

/-- Re-examination of a queue: grant the head while the rule admits it and it wants SHARED, stop after another grant or at
the first head not grantable (R38). Answers the record after it and the ports granted, in order. -/
def Lock.admitFrom (lease : Option Tick) : List Waiter → Lock → Lock × List PortId
  | [], k => ({ k with queue := [] }, [])
  | w :: q, k =>
    if k.grantable w then
      match w.want with
      | .shared =>
        let r := Lock.admitFrom lease q (k.grant w.port w.want lease)
        (r.1, w.port :: r.2)
      | .exclusive | .upgrade => ({ k.grant w.port w.want lease with queue := q }, [w.port])
    else ({ k with queue := w :: q }, [])

/-- Whether the record covers a block (R20). -/
def Lock.covers (k : Lock) (b : BlockNo) : Bool :=
  k.defined && (k.first.toNat ≤ b.toNat && b.toNat < k.first.toNat + k.count.toNat)

/-- Whether the record, if defined, covers a block of the run of `n` blocks from `first` (R24). -/
def Lock.meets (k : Lock) (first : BlockNo) (n : Byte) : Bool :=
  k.defined && max k.first.toNat first.toNat < min (k.first.toNat + k.count.toNat) (first.toNat + n.toNat)

/-- Whether a request that would hold `w` is granted at once: ACQUIRE SHARED on an empty queue and a mode not EXCLUSIVE
(R42), ACQUIRE EXCLUSIVE on a FREE lock (R43), UPGRADE by the only holder (R46). -/
def Lock.grantedAtOnce (k : Lock) (p : PortId) (w : Wanted) : Bool :=
  match w with
  | .shared => k.queue.isEmpty && k.mode ≠ .exclusive
  | .exclusive => k.mode = .free
  | .upgrade => k.holderList = [p]

/-! ## The table -/

/-- Re-examine a lock (R38, R39): the granted ports are holders, and their commands end NONE at this event. -/
def State.reexamine (s : State) (m : Moment) (l : LockId) : State :=
  let k := s.lockAt l
  let r := Lock.admitFrom (s.leaseDeadline m k.lease) k.queue k
  (s.setLock l r.1).completeAll r.2 .none

/-- The lock that covers a block, none for an open one (R20). -/
def State.covering (s : State) (b : BlockNo) : Option LockId := allLocks.find? fun l => (s.lockAt l).covers b

/-- Whether a port may read a block (R22). -/
def State.mayRead (s : State) (p : PortId) (b : BlockNo) : Bool :=
  match s.covering b with
  | none => true
  | some l => (s.lockAt l).holds p

/-- Whether a port may write a block (R22). -/
def State.mayWrite (s : State) (p : PortId) (b : BlockNo) : Bool :=
  match s.covering b with
  | none => true
  | some l => (s.lockAt l).holds p && (s.lockAt l).mode = .exclusive

/-- The access check of a port's request (R22). -/
def State.accessAllowed (s : State) (p : PortId) (r : PoolRequest) : Bool :=
  match r.kind, r.dest with
  | .store, _ | .zero, _ => s.mayWrite p r.block
  | .copy, some d => s.mayRead p r.block && s.mayWrite p d
  | _, _ => s.mayRead p r.block

/-- The waits-for relation (R53): `w` is in the queue of a lock that `h`, another port, holds. -/
def State.waitsFor (s : State) (w h : PortId) : Bool :=
  w ≠ h && allLocks.any fun l => (s.lockAt l).waits w && (s.lockAt l).holds h

/-- Whether `b` is reached from `a` along one to `n` edges of waits-for (R54). -/
def State.reaches (s : State) : Nat → PortId → PortId → Bool
  | 0, _, _ => false
  | n + 1, a, b => s.waitsFor a b || allPorts.any fun h => s.waitsFor a h && State.reaches s n h b

/-- Whether a new wait of port `p` on lock `l` closes a cycle (R54). Among four ports no path needs more than four edges. -/
def State.wouldDeadlock (s : State) (p : PortId) (l : LockId) : Bool :=
  allPorts.any fun h => h ≠ p && (s.lockAt l).holds h && s.reaches 4 h p

/-- Place an entry, at the head for UPGRADE and at the tail otherwise; the port enters WAITLOCK (R37, R44, R48). -/
def State.placeEntry (s : State) (m : Moment) (l : LockId) (p : PortId) (w : Wanted) (limit : Byte) : State :=
  let k := s.lockAt l
  let e : Waiter := ⟨p, w, s.waitDeadline m limit⟩
  let queue := match w with
    | .upgrade => e :: k.queue
    | .shared | .exclusive => k.queue ++ [e]
  (s.setLock l { k with queue := queue }).onPort p fun q => { q with state := .waitLock, outgoing := none }

/-- Grant a request that does not wait: the record changes as by a grant and the command ends NONE (R39, R47). -/
def State.grantNow (s : State) (m : Moment) (l : LockId) (p : PortId) (w : Wanted) : State :=
  let k := s.lockAt l
  (s.setLock l (k.grant p w (s.leaseDeadline m k.lease))).complete p .none

/-- The last steps of a request that may wait (R41 steps 4 to 6, R46 steps 6 to 8). -/
def State.waitOrRefuse (s : State) (m : Moment) (l : LockId) (p : PortId) (w : Wanted) (limit : Byte) : State :=
  if limit = 0 then s.complete p .wouldWait
  else if s.wouldDeadlock p l then s.complete p .deadlock
  else s.placeEntry m l p w limit

/-- The table takes the due lease deadline of holder `p` of lock `l` (R64, R67, R68). A deadline that was dropped or
replaced has no effect (R64). -/
def State.expireLease (s : State) (l : LockId) (p : PortId) : State :=
  let k := s.lockAt l
  match k.holders[p] with
  | none => s
  | some h =>
    if s.isDue h.lease then
      let k' := k.dropHold p
      let s' := (s.setLock l (if k.upgrades p then k'.removeEntry p else k')).onPort p fun q => q.addLost l
      (if k.upgrades p then s'.complete p .holdLost else s').reexamine .atTick l
    else s

/-- The table takes the due wait deadline of waiter `p` of lock `l` (R64, R71). -/
def State.timeoutWait (s : State) (l : LockId) (p : PortId) : State :=
  let k := s.lockAt l
  match k.queue.find? fun w => w.port = p with
  | none => s
  | some w =>
    if s.isDue w.deadline then
      ((s.setLock l (k.removeEntry p)).complete p .waitTimeout).reexamine .atTick l
    else s

/-- The table takes the withdrawal of an aborting port's entry (R57). -/
def State.withdrawEntry (s : State) (p : PortId) : State :=
  if (s.port p).state = .waitLock ∧ (s.port p).held = some .abort then
    match allLocks.find? fun l => (s.lockAt l).waits p with
    | none => s
    | some l => ((s.setLock l ((s.lockAt l).removeEntry p)).complete p .aborted).reexamine .betweenTicks l
  else s

/-- A port reset at one lock: the port's hold and entry go and the queue is re-examined, if the lock is changed (R34). -/
def State.resetAtLock (m : Moment) (p : PortId) (s : State) (l : LockId) : State :=
  let k := s.lockAt l
  if k.holds p || k.waits p then
    (s.setLock l ((if k.holds p then k.dropHold p else k).removeEntry p)).reexamine m l
  else s

/-- The lock table takes a port reset (R34). -/
def State.resetAtTable (s : State) (m : Moment) (p : PortId) : State :=
  allLocks.foldl (State.resetAtLock m p) s

/-- A port reset takes effect (R112): the port unit takes its reset values (R113), its note queue and lost set among them,
what it had outstanding is dropped, and the table takes the reset at the same event. -/
def State.portResetEffect (s : State) (m : Moment) (p : PortId) : State :=
  (s.onPort p fun _ => Port.reset).resetAtTable m p

end Sys2Proof.Machine
end

