-- ==== Sys2Proof/Machine/Arbitration.lean ====
section
/-! DEFINITION. The pool arbiter, the grant and the end of a pool transfer, and the scrubber's step (files 05, 09). -/

namespace Sys2Proof.Machine

/-- Whether a transfer of port `p` is in flight (R79). -/
def State.inFlight (s : State) (p : PortId) : Bool :=
  match s.pool.transfer with
  | none => false
  | some t => t.requester = .port p

/-- Whether a pool request of port `p` is on its way to the arbiter or waits there (R79; log 5). -/
def State.poolRequested (s : State) (p : PortId) : Bool :=
  s.arbiter.waiting[p].isSome ||
    match (s.port p).outgoing with
    | some (.pool _) => true
    | _ => false

/-! ## The scrubber -/

/-- Start the interval timer (R148). -/
def Scrubber.startTimer (c : Scrubber) (m : Moment) : Scrubber :=
  { c with phase := .timing, timer := some ⟨0, ticksUntil m c.interval.toNat⟩ }

/-- The scrubber stands in OFF (R150, R151). -/
def Scrubber.turnOff (c : Scrubber) : Scrubber := { c with phase := .off, timer := none }

/-- The end of a step (R150): the position moves on, and the timer starts or the scrubber is OFF. -/
def Scrubber.endStep (c : Scrubber) (m : Moment) : Scrubber :=
  let c' := { c with position := c.position + 1 }
  if c'.interval = 0 then c'.turnOff else c'.startTimer m

/-- The arbiter takes the withdrawal of the scrub request (R84, R85). -/
def Arbiter.withdrawScrub (a : Arbiter) : Arbiter := { a with scrubReq := none, scrubWait := 0 }

/-- SET SCRUB taken at the scrubber (R151). -/
def State.takeSetScrub (s : State) (n : Byte) : State :=
  let c := { s.scrubber with interval := n }
  match s.scrubber.phase with
  | .off | .timing => { s with scrubber := if n = 0 then c.turnOff else c.startTimer .betweenTicks }
  | .requested =>
    if n = 0 then { s with scrubber := c.turnOff, arbiter := s.arbiter.withdrawScrub } else { s with scrubber := c }
  | .scrubbing => { s with scrubber := c }

/-! ## The choice of a grant -/

/-- The ports in the order in which the arbiter looks for a request (R82). -/
def Arbiter.portOrder (a : Arbiter) : List PortId :=
  match a.mode with
  | .rotate => [a.pointer + 1, a.pointer + 2, a.pointer + 3, a.pointer]
  | .fixed => [0, 1, 2, 3]

/-- The request the arbiter grants next (R82), none where none waits. -/
def Arbiter.choose (a : Arbiter) : Option Requester :=
  if a.scrubReq.isSome ∧ Config.scrubBound ≤ a.scrubWait then some .scrubber
  else match a.portOrder.find? fun p => a.waiting[p].isSome with
    | some p => some (.port p)
    | none => if a.scrubReq.isSome then some .scrubber else none

/-- The arbiter's own part of a port grant (R82, R83, R84). -/
def Arbiter.grantedPort (a : Arbiter) (p : PortId) : Arbiter :=
  { a with
    waiting := a.waiting.set p none
    pointer := p
    scrubWait := if a.scrubReq.isSome then a.scrubWait + 1 else a.scrubWait }

/-! ## Settling a grant -/

/-- The transfer a port's grant begins (R4): a store takes staging as it stands (R9), a zero takes 00h, the others read
their block (R5, R6). -/
def State.transferOf (s : State) (p : PortId) (r : PoolRequest) : Transfer :=
  match r.kind with
  | .store => ⟨.port p, r.kind, r.block, r.dest, none, (s.port p).staging⟩
  | .zero => ⟨.port p, r.kind, r.block, r.dest, none, Vector.replicate 128 0⟩
  | .load | .copy | .verify | .scrub =>
    let read := s.pool.readBlock r.block
    ⟨.port p, r.kind, r.block, r.dest, some read.1, read.2⟩

/-- A port's transfer begins; a port whose abort or reset is held enters ABORTING (R4, R93, R108, R111). -/
def State.beginTransfer (s : State) (p : PortId) (r : PoolRequest) : State :=
  { s with pool := { s.pool with transfer := some (s.transferOf p r) } }.onPort p fun q =>
    if q.held.isSome then { q with state := .aborting } else q

/-- A grant the access check refuses (R83, R128): the command ends ACCESS, staging of a WRITE BLOCKS is discarded (R124);
a held port reset takes effect in its place (R111). -/
def State.refuseGrant (s : State) (m : Moment) (p : PortId) : State :=
  if (s.port p).held = some .portReset then s.portResetEffect m p
  else s.onPort p fun q =>
    (match q.running with
      | some ⟨.writeBlocks, _⟩ => q.discard
      | _ => q).complete .access

/-- A grant to a port (R83). -/
def State.grantPort (s : State) (m : Moment) (p : PortId) : State :=
  match s.arbiter.waiting[p] with
  | none => s
  | some r =>
    let s' := { s with arbiter := s.arbiter.grantedPort p }
    if s'.accessAllowed p r then s'.beginTransfer p r else s'.refuseGrant m p

/-- A grant to the scrubber (R83, R84, R149): a scrub of a GOOD block begins; another block is a skip that ends the step. -/
def State.grantScrub (s : State) (m : Moment) : State :=
  match s.arbiter.scrubReq with
  | none => s
  | some b =>
    let s' := { s with arbiter := s.arbiter.withdrawScrub }
    match s.pool.stateOf b with
    | .good =>
      let read := s.pool.readBlock b
      { s' with
        pool := { s.pool with transfer := some ⟨.scrubber, .scrub, b, none, some read.1, read.2⟩ }
        scrubber := { s.scrubber with phase := .scrubbing } }
    | .unwritten | .poisoned => { s' with scrubber := s.scrubber.endStep m }

/-- One grant, if the controller is IDLE and a request waits (R81, R83). -/
def State.grantOne (s : State) (m : Moment) : State :=
  match s.pool.transfer with
  | some _ => s
  | none =>
    match s.arbiter.choose with
    | none => s
    | some (.port p) => s.grantPort m p
    | some .scrubber => s.grantScrub m

/-- Grants as long as the controller is IDLE and requests wait (R81): a refused grant and a skip leave it IDLE at the same
event. Each grant takes one request away, and at most five wait. -/
def State.grantAll (s : State) (m : Moment) : State :=
  ((((s.grantOne m).grantOne m).grantOne m).grantOne m).grantOne m

/-! ## The end of a transfer -/

/-- The effects of a transfer at its end on what the pool controller keeps (R4 to R14). -/
def Pool.endTransfer (P : Pool) (t : Transfer) : Pool :=
  match t.kind with
  | .load | .verify | .scrub => P.endRead t
  | .store | .zero => P.writeBlock t.block t.data
  | .copy => P.endCopy t

/-- A correction mark sets ERROR.CORR (R7, R100). -/
def Port.takeMark (q : Port) (t : Transfer) : Port :=
  match t.result with
  | .success true => { q with corr := true }
  | _ => q

/-- The result of a transfer at a port in EXEC (R88, R118, R121, R123, R129). -/
def Port.takeResult (q : Port) (t : Transfer) : Port :=
  match t.result with
  | .failure k => q.complete k
  | .success _ =>
    match t.kind with
    | .load => (q.takeMark t).offerBytes t.data
    | _ => (q.takeMark t).finishBlock

/-- The result of a transfer at a port in ABORTING with a held abort (R110): what was written counts, a load is discarded,
and the command ends ABORTED. -/
def Port.settleAbort (q : Port) (t : Transfer) : Port :=
  let r := q.takeMark t
  (match t.result, t.kind with
    | .failure _, _ => r
    | .success _, .load => { r with staging := t.data, index := 0 }
    | .success _, _ => r.blockCompleted).complete .aborted

/-- The result reaches port `p` (R88). -/
def State.deliver (s : State) (m : Moment) (p : PortId) (t : Transfer) : State :=
  if (s.port p).state = .aborting then
    if (s.port p).held = some .portReset then s.portResetEffect m p
    else s.onPort p fun q => q.settleAbort t
  else s.onPort p fun q => q.takeResult t

/-- The end of the transfer in flight, if it is of the kind named: the effects at the pool, the result to the requester,
and the next grant (R4, R81, R87, R88). -/
def State.endOf (s : State) (kind : TransferKind) : State :=
  match s.pool.transfer with
  | none => s
  | some t =>
    if t.kind = kind then
      let s' := { s with pool := { s.pool.endTransfer t with transfer := none } }
      (match t.requester with
        | .port p => s'.deliver .betweenTicks p t
        | .scrubber => { s' with scrubber := s'.scrubber.endStep .betweenTicks }).grantAll .betweenTicks
    else s

/-! ## Arrival and withdrawal at the arbiter -/

/-- A port's pool request arrives at the arbiter (R81). -/
def State.arrivePool (s : State) (p : PortId) : State :=
  match (s.port p).outgoing with
  | some (.pool r) =>
    let s' := s.onPort p fun q => { q with outgoing := none }
    { s' with arbiter := { s'.arbiter with waiting := s'.arbiter.waiting.set p (some r) } }.grantAll .betweenTicks
  | _ => s

/-- A withdrawal of port `p`'s request is taken (R85, R91, R108, R111): the command ends ABORTED, or the held port reset
takes effect. Without a withdrawal outstanding, or without a request, there is nothing to take. -/
def State.withdrawPool (s : State) (p : PortId) : State :=
  if s.poolRequested p then
    let s' := { s with arbiter := { s.arbiter with waiting := s.arbiter.waiting.set p none } }
    match (s.port p).held with
    | none => s
    | some .abort => s'.complete p .aborted
    | some .portReset => s'.portResetEffect .betweenTicks p
  else s

/-- The withdrawal of the scrub request is taken by itself: an interval of 0 has turned the scrubber off while its request
waited (R85, R151; log 17). -/
def State.withdrawScrubRequest (s : State) : State :=
  if s.scrubber.phase = .requested ∧ s.scrubber.interval = 0 ∧ s.arbiter.scrubReq.isSome then
    { s with arbiter := s.arbiter.withdrawScrub, scrubber := s.scrubber.turnOff }
  else s

end Sys2Proof.Machine
end

