-- ==== Sys2Proof/Machine/Operands.lean ====
section
/-! DEFINITION. Arguments and results of the commands: the window's registers, the checks of acceptance, the requests built
from the registers, and the three records (R95, R96, R98, R163 to R169). -/

namespace Sys2Proof.Machine

/-! ## The window's registers -/

/-- The low eight bits of a pair (R98, R163). -/
def lowByte (b : BlockNo) : Byte := b.setWidth 8

/-- Bit 0 of the high register of a pair; bits 7 to 1 read 0 (R98, R163). -/
def highByte (b : BlockNo) : Byte := (b >>> 8).setWidth 8

/-- A pair with its low register written (R98). -/
def withLow (b : BlockNo) (v : Byte) : BlockNo := b.extractLsb' 8 1 ++ v

/-- A pair with its high register written: bit 0 of the value is kept (R98). -/
def withHigh (b : BlockNo) (v : Byte) : BlockNo := v.extractLsb' 0 1 ++ b.extractLsb' 0 8

/-- What a read at an offset returns (R98 to R100, R103, R105, R114, R138, R77, R163). -/
def State.readWindow (s : State) (p : PortId) (offset : Fin 16) : Byte :=
  let q := s.port p
  match offset.val with
  | 0x0 => if q.state = .dataIn then q.staging[q.index]?.getD 0 else 0
  | 0x1 => q.param
  | 0x2 => q.count
  | 0x3 => lowByte q.block
  | 0x4 => highByte q.block
  | 0x5 => lowByte q.dest
  | 0x6 => highByte q.dest
  | 0x7 => q.lock
  | 0x8 => s.status p
  | 0x9 => q.error
  | 0xA => s.status p
  | 0xB => q.irqen
  | 0xC => match q.notes with
    | [] => 0xFF
    | n :: _ => BitVec.ofNat 8 n.sender.val
  | 0xD => match q.notes with
    | [] => 0
    | n :: _ => n.code
  | 0xE => match q.notes with
    | [] => 0
    | n :: _ => n.tag
  | _ => match q.lowestLost with -- Fh, LOST
    | none => 0xFF
    | some l => BitVec.ofNat 8 l.val

/-- A write of an argument register: stored in READY, ignored otherwise; the other offsets store nothing (R98). -/
def Port.writeArgument (q : Port) (offset : Fin 16) (v : Byte) : Port :=
  if q.state = .ready then
    match offset.val with
    | 0x1 => { q with param := v }
    | 0x2 => { q with count := v }
    | 0x3 => { q with block := withLow q.block v }
    | 0x4 => { q with block := withHigh q.block v }
    | 0x5 => { q with dest := withLow q.dest v }
    | 0x6 => { q with dest := withHigh q.dest v }
    | 0x7 => { q with lock := v }
    | _ => q
  else q

/-! ## The checks of acceptance -/

/-- Whether the port has the right the command needs (R95, R154, R155). -/
def State.hasRight (s : State) (p : PortId) (c : Command) : Bool :=
  match c with
  | .setRights => p = 0
  | .defineLock | .undefineLock | .breakLock | .setArbiter | .setScrub | .readFaultList => s.rights.holds p
  | .readBlocks | .writeBlocks | .copyBlocks | .zeroBlocks | .verifyBlocks | .acquireShared | .acquireExclusive
  | .upgrade | .downgrade | .release | .renew | .queryLock | .postNote | .identify => true

/-- Whether a run of COUNT blocks from `first` is in range (R95). -/
def Port.runInRange (q : Port) (first : BlockNo) : Bool := q.count ≠ 0 && first.toNat + q.count.toNat ≤ 512

/-- Whether the arguments the command reads are in range (R95). -/
def Port.argumentsInRange (q : Port) (c : Command) : Bool :=
  match c with
  | .readBlocks | .writeBlocks | .zeroBlocks | .verifyBlocks => q.runInRange q.block
  | .copyBlocks => q.runInRange q.block && q.runInRange q.dest
  | .acquireShared | .acquireExclusive | .upgrade | .downgrade | .release | .renew | .queryLock => q.lock.toNat ≤ 31
  | .defineLock => q.lock.toNat ≤ 31 && q.runInRange q.block
  | .undefineLock | .breakLock => q.lock.toNat ≤ 31
  | .setRights => q.lock ≠ 0 && q.lock.toNat ≤ 3 && q.param.toNat ≤ 1
  | .setArbiter => q.param.toNat ≤ 1
  | .postNote => q.lock.toNat ≤ 3
  | .setScrub | .readFaultList | .identify => true

/-- The lock id the LOCK register names. -/
def Port.lockArgument (q : Port) : LockId := Fin.ofNat 32 q.lock.toNat

/-- The port the LOCK register names. -/
def Port.portArgument (q : Port) : PortId := Fin.ofNat 4 q.lock.toNat

/-- The request a command hands to another block, with the arguments as they stand (R24, R35, R96, R137); none for a command
that hands none. -/
def Port.handedRequest (q : Port) (c : Command) : Option HandedRequest :=
  match c with
  | .acquireShared => some (.acquireShared q.lockArgument q.param)
  | .acquireExclusive => some (.acquireExclusive q.lockArgument q.param)
  | .upgrade => some (.upgrade q.lockArgument q.param)
  | .downgrade => some (.downgrade q.lockArgument)
  | .release => some (.release q.lockArgument)
  | .renew => some (.renew q.lockArgument)
  | .queryLock => some (.queryLock q.lockArgument)
  | .defineLock => some (.defineLock q.lockArgument q.block q.count (lowByte q.dest))
  | .undefineLock => some (.undefineLock q.lockArgument)
  | .breakLock => some (.breakLock q.lockArgument)
  | .setRights => some (.setRights q.portArgument (q.param = 1))
  | .setArbiter => some (.setArbiter (q.param = 1))
  | .setScrub => some (.setScrub q.param)
  | .postNote => some (.postNote q.portArgument q.param (lowByte q.dest))
  | .readBlocks | .writeBlocks | .copyBlocks | .zeroBlocks | .verifyBlocks | .readFaultList | .identify => none

/-- Whether a COPY BLOCKS runs descending: DEST above BLOCK and at most BLOCK + COUNT − 1 (R117). -/
def Port.copiesDown (q : Port) : Bool := q.block < q.dest && q.dest.toNat ≤ q.block.toNat + q.count.toNat - 1

/-! ## Records -/

/-- A record: its bytes from byte 0 on, 00h after them (R166). -/
def record (l : List Byte) : Bytes := tabulate 128 fun j => l.getD j 0

/-- A number of two bytes, low byte first (R166). -/
def twoBytes (n : Nat) : List Byte := [BitVec.ofNat 8 n, BitVec.ofNat 8 (n / 256)]

/-- A flag (R165). -/
def flagByte (b : Bool) : Byte := if b then 1 else 0

/-- The code of a lock mode in a record (R165). -/
def LockMode.code : LockMode → Byte
  | .free => 0
  | .shared => 1
  | .exclusive => 2

/-- The code of a waiter's wanted mode in a record (R165). -/
def Wanted.code : Wanted → Byte
  | .shared => 1
  | .exclusive => 2
  | .upgrade => 3

/-- The identify record (R160, R167). -/
def State.identifyRecord (s : State) (p : PortId) : Bytes :=
  record <|
    [0x4D, 0x04, 0x18, 0x01, BitVec.ofNat 8 p.val, flagByte (s.rights.holds p), flagByte (s.arbiter.mode = .fixed),
      s.scrubber.interval] ++ twoBytes s.scrubber.position.toNat ++ twoBytes 512 ++ [0x80, 0x20, 0x08] ++
      twoBytes (s.pool.countState .poisoned) ++ twoBytes (s.pool.countState .unwritten)

/-- The fault list record (R158, R169). -/
def Pool.faultRecord (P : Pool) : Bytes :=
  record <|
    [BitVec.ofNat 8 P.faults.length, flagByte P.overflow] ++ twoBytes P.corrected.toNat ++
      P.faults.flatMap fun b => twoBytes b.toNat

/-- The remaining lease or wait of a deadline (R32): the ticks still to come by 10, 254 at most; FFh without a deadline. -/
def State.remaining (s : State) (d : Option Tick) : Byte :=
  match d with
  | none => 0xFF
  | some t => BitVec.ofNat 8 (min 254 ((t - s.now) / 10))

/-- The remaining lease byte of a port (R31, R168). -/
def State.remainingLease (s : State) (k : Lock) (p : PortId) : Byte :=
  match k.holders[p] with
  | none => 0xFF
  | some h => if k.lease = 0 then 0xFF else s.remaining h.lease

/-- The holder mask: bit n set when port n holds the lock (R168). -/
def Lock.holderMask (k : Lock) : Byte :=
  0#4 ++ BitVec.ofBool (k.holds 3) ++ BitVec.ofBool (k.holds 2) ++ BitVec.ofBool (k.holds 1) ++ BitVec.ofBool (k.holds 0)

/-- The lock record of QUERY LOCK (R31, R168). -/
def State.lockRecord (s : State) (l : LockId) : Bytes :=
  let k := s.lockAt l
  record <|
    [BitVec.ofNat 8 l.val, flagByte k.defined, k.mode.code] ++ twoBytes k.first.toNat ++ [k.count, k.lease, k.holderMask] ++
      allPorts.map (s.remainingLease k) ++ [BitVec.ofNat 8 k.queue.length] ++
      k.queue.flatMap fun w => [BitVec.ofNat 8 w.port.val, w.want.code, s.remaining w.deadline]

end Sys2Proof.Machine
end

