-- ==== Sys2Proof/Machine/Requests.lean ====
section
/-! DEFINITION. A handed request taken at its block (R21, R96): the lock table's decisions (files 02, 03, 04), the note
queues (file 08), the configuration, the arbiter's and the scrubber's settings (files 05, 09, 10). -/

namespace Sys2Proof.Machine

/-- ACQUIRE SHARED and ACQUIRE EXCLUSIVE at the table (R41 to R44). -/
def State.takeAcquire (s : State) (p : PortId) (l : LockId) (w : Wanted) (limit : Byte) : State :=
  let k := s.lockAt l
  if !k.defined then s.complete p .notDefined
  else if k.holds p then s.complete p .alreadyHeld
  else if k.grantedAtOnce p w then s.grantNow .betweenTicks l p w
  else s.waitOrRefuse .betweenTicks l p w limit

/-- UPGRADE at the table (R46 to R48). -/
def State.takeUpgrade (s : State) (p : PortId) (l : LockId) (limit : Byte) : State :=
  let k := s.lockAt l
  if !k.defined then s.complete p .notDefined
  else if k.holds p && k.mode = .exclusive then s.complete p .alreadyHeld
  else if !k.holds p then s.complete p .notHeld
  else if k.grantedAtOnce p .upgrade then s.grantNow .betweenTicks l p .upgrade
  else if k.queue.any (fun w => w.want = .upgrade) then s.complete p .upgradeConflict
  else s.waitOrRefuse .betweenTicks l p .upgrade limit

/-- DOWNGRADE at the table (R50): the lease deadline is kept, the queue re-examined. -/
def State.takeDowngrade (s : State) (p : PortId) (l : LockId) : State :=
  let k := s.lockAt l
  if !k.defined then s.complete p .notDefined
  else if !(k.holds p && k.mode = .exclusive) then s.complete p .notHeld
  else ((s.setLock l { k with mode := .shared }).reexamine .betweenTicks l).complete p .none

/-- RELEASE at the table (R51). -/
def State.takeRelease (s : State) (p : PortId) (l : LockId) : State :=
  let k := s.lockAt l
  if !k.defined then s.complete p .notDefined
  else if !k.holds p then s.complete p .notHeld
  else ((s.setLock l (k.dropHold p)).reexamine .betweenTicks l).complete p .none

/-- RENEW at the table (R66). -/
def State.takeRenew (s : State) (p : PortId) (l : LockId) : State :=
  let k := s.lockAt l
  if !k.defined then s.complete p .notDefined
  else if !k.holds p then s.complete p .notHeld
  else if k.lease = 0 then s.complete p .none
  else (s.setLock l { k with holders := k.holders.set p (some ⟨s.leaseDeadline .betweenTicks k.lease⟩) }).complete p .none

/-- QUERY LOCK at the table (R31): the snapshot is placed in staging; where an abort is outstanding it is discarded and
the command ends ABORTED (R109). -/
def State.takeQuery (s : State) (p : PortId) (l : LockId) : State :=
  if !(s.lockAt l).defined then s.complete p .notDefined
  else
    let r := s.lockRecord l
    s.onPort p fun q =>
      if q.held = some .abort then ({ q with staging := r }.discard).complete .aborted
      else { q with outgoing := none }.offerBytes r

/-- DEFINE LOCK at the table (R24, R25). -/
def State.takeDefine (s : State) (p : PortId) (l : LockId) (first : BlockNo) (count lease : Byte) : State :=
  if (s.lockAt l).defined then s.complete p .defined
  else if allLocks.any (fun i => i ≠ l && (s.lockAt i).meets first count) then s.complete p .overlap
  else (s.setLock l ⟨true, first, count, lease, .free, Vector.replicate 4 none, []⟩).complete p .none

/-- UNDEFINE LOCK at the table (R27). -/
def State.takeUndefine (s : State) (p : PortId) (l : LockId) : State :=
  let k := s.lockAt l
  if !k.defined then s.complete p .notDefined
  else if k.holderList ≠ [] ∨ k.queue ≠ [] then s.complete p .lockBusy
  else (s.setLock l Lock.reset).complete p .none

/-- BREAK LOCK at the table (R29): every holder goes and finds the id in its lost set, an UPGRADE wait ends HOLD_LOST, the
queue is re-examined, and the issuing port's command ends NONE. -/
def State.takeBreak (s : State) (p : PortId) (l : LockId) : State :=
  let k := s.lockAt l
  if !k.defined then s.complete p .notDefined
  else
    let k' := { k with
      mode := .free, holders := Vector.replicate 4 none, queue := k.queue.filter fun w => w.want ≠ .upgrade }
    let losers := (k.queue.filter fun w => w.want = .upgrade).map Waiter.port
    ((((s.setLock l k').addLostAll k.holderList l).completeAll losers .holdLost).reexamine .betweenTicks l).complete p .none

/-- POST NOTE at the target's queue (R140). -/
def State.takePost (s : State) (p target : PortId) (code tag : Byte) : State :=
  if (s.port target).notes.length < Config.noteDepth then
    (s.onPort target fun q => q.appendNote ⟨p, code, tag⟩).complete p .none
  else s.complete p .noteFull

/-- A handed request is taken whole by its block, and the answer reaches the port unit at the same event (R21, R35, R96). -/
def State.takeRequest (s : State) (p : PortId) (r : HandedRequest) : State :=
  match r with
  | .acquireShared l limit => s.takeAcquire p l .shared limit
  | .acquireExclusive l limit => s.takeAcquire p l .exclusive limit
  | .upgrade l limit => s.takeUpgrade p l limit
  | .downgrade l => s.takeDowngrade p l
  | .release l => s.takeRelease p l
  | .renew l => s.takeRenew p l
  | .queryLock l => s.takeQuery p l
  | .defineLock l first count lease => s.takeDefine p l first count lease
  | .undefineLock l => s.takeUndefine p l
  | .breakLock l => s.takeBreak p l
  | .setRights t give => { s with rights := s.rights.give t give }.complete p .none
  | .setArbiter fixed => { s with arbiter := { s.arbiter with mode := if fixed then .fixed else .rotate } }.complete p .none
  | .setScrub n => (s.takeSetScrub n).complete p .none
  | .postNote t code tag => s.takePost p t code tag

/-- A handed request arrives at its block (R96). -/
def State.arriveHanded (s : State) (p : PortId) : State :=
  match (s.port p).outgoing with
  | some (.handed r) => s.takeRequest p r
  | _ => s

/-- The withdrawal of an aborting port's handed request is taken (R109): the request is dropped and the command ends
ABORTED; where the table has placed an entry for it, the withdrawal removes the entry (R57). -/
def State.withdrawHanded (s : State) (p : PortId) : State :=
  match (s.port p).outgoing, (s.port p).held with
  | some (.handed _), some .abort => s.complete p .aborted
  | _, _ => s.withdrawEntry p

end Sys2Proof.Machine
end

