-- ==== Sys2Proof/Machine/PortUnit.lean ====
section
/-! DEFINITION. What the port unit does with a write of its window (R94 to R98, R104 to R106, R111, R114, R163). -/

namespace Sys2Proof.Machine

/-- What acceptance clears (R94). -/
def Port.accept (q : Port) : Port := { q with done := false, kind := .none, corr := false, rej := false }

/-- A command that passed its checks begins (R96, R117). Records are captured here (R158, R159, R160). -/
def State.beginCommand (s : State) (p : PortId) (c : Command) : State :=
  match c with
  | .readBlocks | .zeroBlocks | .verifyBlocks => s.onPort p fun q => { q with running := some ⟨c, .ascending⟩ }.requestBlock
  | .writeBlocks => s.onPort p fun q => { q with running := some ⟨c, .ascending⟩ }.openPhase .dataOut
  | .copyBlocks => s.onPort p fun q =>
    if q.copiesDown then
      { q with
        running := some ⟨c, .descending⟩
        block := q.block + (q.count.setWidth 9 - 1)
        dest := q.dest + (q.count.setWidth 9 - 1) }.requestBlock
    else { q with running := some ⟨c, .ascending⟩ }.requestBlock
  | .identify =>
    let r := s.identifyRecord p
    s.onPort p fun q => { q with running := some ⟨c, .ascending⟩ }.offerBytes r
  | .readFaultList =>
    let r := s.pool.faultRecord
    let clear := (s.port p).param.getLsbD 0
    { s with pool := if clear then { s.pool with overflow := false, corrected := 0 } else s.pool }.onPort p fun q =>
      { q with running := some ⟨c, .ascending⟩ }.offerBytes r
  | .acquireShared | .acquireExclusive | .upgrade | .downgrade | .release | .renew | .queryLock | .defineLock
  | .undefineLock | .breakLock | .setRights | .setArbiter | .setScrub | .postNote =>
    s.onPort p fun q =>
      { q with state := .exec, running := some ⟨c, .ascending⟩, outgoing := (q.handedRequest c).map .handed }

/-- A write of COMMAND accepted in READY: the checks in their order, then the beginning (R94, R95, R96). `none` stands for
a code that names no command. -/
def State.acceptCommand (s : State) (p : PortId) (c : Option Command) : State :=
  let s' := s.onPort p Port.accept
  match c with
  | none => s'.complete p .badCommand
  | some c =>
    if !s'.hasRight p c then s'.complete p .noRight
    else if !(s'.port p).argumentsInRange c then s'.complete p .badParam
    else s'.beginCommand p c

/-- A write of COMMAND (R94, R97): accepted in READY; otherwise discarded with REJ. -/
def State.writeCommand (s : State) (p : PortId) (c : Option Command) : State :=
  if (s.port p).state = .ready then s.acceptCommand p c else s.onPort p fun q => { q with rej := true }

/-- A write of COMMAND whose request, once handed, is taken by its block at once or left outstanding (R96; log 4). -/
def State.writeHanded (s : State) (p : PortId) (c : Command) (h : Handing) : State :=
  if (s.port p).state = .ready then
    match h with
    | .takenAtOnce => (s.acceptCommand p (some c)).arriveHanded p
    | .outstanding => s.acceptCommand p (some c)
  else s.onPort p fun q => { q with rej := true }

/-- An abort (R106 to R110). Where it must reach another block, the withdrawal is outstanding from here on. -/
def State.takeAbort (s : State) (p : PortId) : State :=
  match (s.port p).state with
  | .ready | .aborting => s
  | .dataIn | .dataOut => s.onPort p fun q => q.discard.complete .aborted
  | .exec =>
    if s.inFlight p then s.onPort p fun q => { q with state := .aborting, held := some .abort }
    else if (s.port p).held = some .portReset then s
    else s.onPort p fun q => { q with held := some .abort }
  | .waitLock => s.onPort p fun q => { q with held := some .abort }

/-- A port reset (R111). -/
def State.takePortReset (s : State) (p : PortId) : State :=
  match (s.port p).state with
  | .ready | .dataIn | .dataOut | .waitLock => s.portResetEffect .betweenTicks p
  | .exec =>
    if s.inFlight p then s.onPort p fun q => { q with state := .aborting, held := some .portReset }
    else if s.poolRequested p then s.onPort p fun q => { q with held := some .portReset }
    else s.portResetEffect .betweenTicks p
  | .aborting => s.onPort p fun q => { q with held := some .portReset }

/-- A write of CONTROL (R106, R164): PRESET is bit 1, ABORT bit 0. -/
def State.writeControl (s : State) (p : PortId) (v : Byte) : State :=
  if v.getLsbD 1 then s.takePortReset p else if v.getLsbD 0 then s.takeAbort p else s

/-- A write of DATA (R104, R105): in DATA_OUT one byte is staged, and the 128th requests the store. -/
def Port.writeData (q : Port) (v : Byte) : Port :=
  if q.state = .dataOut then
    let r := { q with
      staging := if h : q.index < 128 then q.staging.set q.index v h else q.staging, index := q.index + 1 }
    if r.index < 128 then r else r.requestBlock
  else q

/-- A read of DATA (R103, R105): what it returns is on the data bus; in DATA_IN the index rises, and the 128th read
completes the block of a READ BLOCKS or the command of a record. -/
def Port.readData (q : Port) : Port :=
  if q.state = .dataIn then
    let r := { q with dataBus := q.staging[q.index]?.getD 0, index := q.index + 1 }
    if r.index < 128 then r
    else match r.running with
      | some ⟨.readBlocks, _⟩ => r.finishBlock
      | _ => r.complete .none
  else { q with dataBus := 0 }

/-- A write of LOST (R77). -/
def Port.writeLost (q : Port) (v : Byte) : Port := if v.toNat ≤ 31 then q.removeLost (Fin.ofNat 32 v.toNat) else q

/-- A write at an offset of the window (R163). -/
def State.writeWindow (s : State) (p : PortId) (offset : Fin 16) (v : Byte) : State :=
  match offset.val with
  | 0x0 => s.onPort p fun q => q.writeData v
  | 0x8 => s.writeCommand p (commandOfCode v)
  | 0x9 => s.writeControl p v
  | 0xB => s.onPort p fun q => { q with irqen := irqMask v }
  | 0xC => s.onPort p fun q => q.popNote
  | 0xF => s.onPort p fun q => q.writeLost v
  | 0xA => s
  | 0xD => s
  | 0xE => s
  | _ => s.onPort p fun q => q.writeArgument offset v -- 1h to 7h, the argument registers

/-- Device reset (R17, R33, R91, R113, R146, R153, R162): the pool is kept but for a transfer cut, all else is as at
power-on; the queue of waiting commands is the environment's and stays. -/
def State.resetDevice (s : State) : State := { State.reset with pool := s.pool.deviceReset, pending := s.pending }

/-- A tick of the timebase (R63, R148): the tick number rises, so deadlines of this tick are due (R64), and a running
interval timer counts it. -/
def State.takeTick (s : State) : State :=
  { s with
    now := s.now + 1
    scrubber := { s.scrubber with timer := s.scrubber.timer.map fun t => { t with elapsed := t.elapsed + 1 } } }

/-- Whether the interval timer has run out (R148). -/
def Scrubber.timerOut (c : Scrubber) : Bool :=
  match c.timer with
  | none => false
  | some t => t.runsOutAt ≤ t.elapsed

/-- The scrubber makes its request at the tick at which its timer runs out (R148), and the arbiter takes it at the same
event (R81). -/
def State.requestScrub (s : State) : State :=
  if s.scrubber.phase = .timing ∧ s.scrubber.timerOut then
    { s with
      scrubber := { s.scrubber with phase := .requested, timer := none }
      arbiter := { s.arbiter with scrubReq := some s.scrubber.position } }.grantAll .atTick
  else s

end Sys2Proof.Machine
end

