-- ==== Sys2Proof/Machine/BlockCommands.lean ====
section
/-! DEFINITION. The COMMAND writes of the block commands, and of a code that names no command (file 07, R94 to R97). -/

namespace Sys2Proof.Machine

/-- READ BLOCKS (R94, R95, R96, R97, R117, R121): refused, discarded, or begun with the load request of its first block. -/
def execReadBlocks (p : PortId) (s : State) : Host.Outcome State Fault Refusal := .next (s.writeCommand p (some .readBlocks))

/-- WRITE BLOCKS (R94, R95, R96, R97, R117, R123): refused, discarded, or begun in DATA_OUT. -/
def execWriteBlocks (p : PortId) (s : State) : Host.Outcome State Fault Refusal :=
  .next (s.writeCommand p (some .writeBlocks))

/-- COPY BLOCKS (R94, R95, R96, R97, R117, R125): refused, discarded, or begun with the copy request of its first pair in
the direction chosen. -/
def execCopyBlocks (p : PortId) (s : State) : Host.Outcome State Fault Refusal := .next (s.writeCommand p (some .copyBlocks))

/-- ZERO BLOCKS (R94, R95, R96, R97, R117, R119): refused, discarded, or begun with the zero request of its first block. -/
def execZeroBlocks (p : PortId) (s : State) : Host.Outcome State Fault Refusal := .next (s.writeCommand p (some .zeroBlocks))

/-- VERIFY BLOCKS (R94, R95, R96, R97, R117, R120): refused, discarded, or begun with the verify request of its first
block. -/
def execVerifyBlocks (p : PortId) (s : State) : Host.Outcome State Fault Refusal :=
  .next (s.writeCommand p (some .verifyBlocks))

/-- A COMMAND write of a code that names no command (R95): accepted in READY and ended BAD_COMMAND, discarded otherwise
(R97). A code that names a command is that command's write (log 13). -/
def execBadCommand (p : PortId) (code : Byte) (s : State) : Host.Outcome State Fault Refusal :=
  .next (s.writeCommand p (commandOfCode code))

end Sys2Proof.Machine
end

