-- ==== Sys2Proof/Machine/HandedEvents.lean ====
section
/-! DEFINITION. Events at the blocks behind a port unit: a handed request or its withdrawal taken, a port reset taken. -/

namespace Sys2Proof.Machine

/-- A handed request is taken whole by its block (R21, R96). -/
def execHandedRequestArrival (p : PortId) (s : State) : Host.Outcome State Fault Refusal := .next (s.arriveHanded p)

/-- The withdrawal of a handed request is taken (R109). -/
def execHandedRequestWithdrawal (p : PortId) (s : State) : Host.Outcome State Fault Refusal := .next (s.withdrawHanded p)

/-- The lock table takes the withdrawal of an aborting port's entry (R57). -/
def execLockEntryWithdrawal (p : PortId) (s : State) : Host.Outcome State Fault Refusal := .next (s.withdrawEntry p)

/-- The lock table takes a port reset of port `p` (R34), which takes effect at that event (R112; log 7). While a pool
transfer or request of the port stands, the port unit has not handed it over. -/
def execTablePortReset (p : PortId) (s : State) : Host.Outcome State Fault Refusal :=
  .next (if s.inFlight p || s.poolRequested p then s else s.portResetEffect .betweenTicks p)

end Sys2Proof.Machine
end

