-- ==== Sys2Proof/Machine/LockCommands.lean ====
section
/-! DEFINITION. The COMMAND writes handed to the lock table (files 02, 03, 04). -/

namespace Sys2Proof.Machine

/-- ACQUIRE SHARED (R35, R41, R42, R44). -/
def execAcquireShared (p : PortId) (h : Handing) (s : State) : Host.Outcome State Fault Refusal :=
  .next (s.writeHanded p .acquireShared h)

/-- ACQUIRE EXCLUSIVE (R35, R41, R43, R44). -/
def execAcquireExclusive (p : PortId) (h : Handing) (s : State) : Host.Outcome State Fault Refusal :=
  .next (s.writeHanded p .acquireExclusive h)

/-- UPGRADE (R35, R46, R47, R48). -/
def execUpgrade (p : PortId) (h : Handing) (s : State) : Host.Outcome State Fault Refusal :=
  .next (s.writeHanded p .upgrade h)

/-- DOWNGRADE (R35, R50). -/
def execDowngrade (p : PortId) (h : Handing) (s : State) : Host.Outcome State Fault Refusal :=
  .next (s.writeHanded p .downgrade h)

/-- RELEASE (R35, R51). -/
def execRelease (p : PortId) (h : Handing) (s : State) : Host.Outcome State Fault Refusal :=
  .next (s.writeHanded p .release h)

/-- RENEW (R66). -/
def execRenew (p : PortId) (h : Handing) (s : State) : Host.Outcome State Fault Refusal :=
  .next (s.writeHanded p .renew h)

/-- QUERY LOCK (R31, R32, R168). -/
def execQueryLock (p : PortId) (h : Handing) (s : State) : Host.Outcome State Fault Refusal :=
  .next (s.writeHanded p .queryLock h)

/-- DEFINE LOCK (R24, R25). -/
def execDefineLock (p : PortId) (h : Handing) (s : State) : Host.Outcome State Fault Refusal :=
  .next (s.writeHanded p .defineLock h)

/-- UNDEFINE LOCK (R27). -/
def execUndefineLock (p : PortId) (h : Handing) (s : State) : Host.Outcome State Fault Refusal :=
  .next (s.writeHanded p .undefineLock h)

/-- BREAK LOCK (R29). -/
def execBreakLock (p : PortId) (h : Handing) (s : State) : Host.Outcome State Fault Refusal :=
  .next (s.writeHanded p .breakLock h)

end Sys2Proof.Machine
end

