-- ==== Sys2Proof/Machine/PartEvents.lean ====
section
/-! DEFINITION. Events of the whole part and of its timebase: the resets, the tick, the deadlines, a disturbance. -/

namespace Sys2Proof.Machine

/-- Power-on (R16, R33, R80, R113, R146, R147, R154): every block at its power-on values. The queue of waiting commands is
the environment's and stays. -/
def execPowerOn (s : State) : Host.Outcome State Fault Refusal := .next { State.reset with pending := s.pending }

/-- Device reset (R17, R33, R91, R113, R146, R153, R162). -/
def execDeviceReset (s : State) : Host.Outcome State Fault Refusal := .next s.resetDevice

/-- The tick of the timebase (R63, R64, R148). -/
def execTick (s : State) : Host.Outcome State Fault Refusal := .next s.takeTick

/-- The lock table takes a due lease deadline (R64, R67, R68). -/
def execLeaseExpiry (l : LockId) (p : PortId) (s : State) : Host.Outcome State Fault Refusal := .next (s.expireLease l p)

/-- The lock table takes a due wait deadline (R64, R71). -/
def execWaitTimeout (l : LockId) (p : PortId) (s : State) : Host.Outcome State Fault Refusal := .next (s.timeoutWait l p)

/-- The scrubber's timer runs out and it requests the pool (R148). -/
def execScrubRequest (s : State) : Host.Outcome State Fault Refusal := .next s.requestScrub

/-- A stored bit of the pool changes (R2). -/
def execStoredBitDisturbance (b : BlockNo) (g : Fin 16) (bit : Fin 72) (s : State) : Host.Outcome State Fault Refusal :=
  .next { s with pool := s.pool.disturb b g bit }

end Sys2Proof.Machine
end

