-- ==== Sys2Proof/Machine/PoolEvents.lean ====
section
/-! DEFINITION. Events at the pool arbiter and the pool controller: arrival, grant, withdrawal, the ends of transfers. -/

namespace Sys2Proof.Machine

/-- A port's pool request arrives at the arbiter (R81). -/
def execPoolRequestArrival (p : PortId) (s : State) : Host.Outcome State Fault Refusal := .next (s.arrivePool p)

/-- The arbiter grants the free pool (R81, R82, R83, R84; log 6). -/
def execPoolGrant (s : State) : Host.Outcome State Fault Refusal := .next (s.grantAll .betweenTicks)

/-- The arbiter takes a withdrawal (R85, R86, R91, R108, R111). -/
def execPoolRequestWithdrawal (r : Requester) (s : State) : Host.Outcome State Fault Refusal :=
  .next (match r with
    | .port p => s.withdrawPool p
    | .scrubber => s.withdrawScrubRequest)

/-- The load in flight ends (R10, R88, R110, R121). -/
def execLoadEnd (s : State) : Host.Outcome State Fault Refusal := .next (s.endOf .load)

/-- The store in flight ends (R9, R88, R110, R123). -/
def execStoreEnd (s : State) : Host.Outcome State Fault Refusal := .next (s.endOf .store)

/-- The zero in flight ends (R9, R88, R110, R118, R119). -/
def execZeroEnd (s : State) : Host.Outcome State Fault Refusal := .next (s.endOf .zero)

/-- The copy in flight ends (R11, R88, R110, R118, R125). -/
def execCopyEnd (s : State) : Host.Outcome State Fault Refusal := .next (s.endOf .copy)

/-- The verify in flight ends (R12, R88, R110, R118, R120). -/
def execVerifyEnd (s : State) : Host.Outcome State Fault Refusal := .next (s.endOf .verify)

/-- The scrub in flight ends (R12, R150). -/
def execScrubEnd (s : State) : Host.Outcome State Fault Refusal := .next (s.endOf .scrub)

end Sys2Proof.Machine
end

