-- ==== Sys2Proof/Machine/SetupCommands.lean ====
section
/-! DEFINITION. The COMMAND writes of the supervisor functions, of notes and of IDENTIFY (files 05, 08, 09, 10). -/

namespace Sys2Proof.Machine

/-- SET RIGHTS (R155). -/
def execSetRights (p : PortId) (h : Handing) (s : State) : Host.Outcome State Fault Refusal :=
  .next (s.writeHanded p .setRights h)

/-- SET ARBITER (R90). -/
def execSetArbiter (p : PortId) (h : Handing) (s : State) : Host.Outcome State Fault Refusal :=
  .next (s.writeHanded p .setArbiter h)

/-- SET SCRUB (R151). -/
def execSetScrub (p : PortId) (h : Handing) (s : State) : Host.Outcome State Fault Refusal :=
  .next (s.writeHanded p .setScrub h)

/-- READ FAULT LIST (R158, R159, R169). -/
def execReadFaultList (p : PortId) (s : State) : Host.Outcome State Fault Refusal :=
  .next (s.writeCommand p (some .readFaultList))

/-- POST NOTE (R139, R140). -/
def execPostNote (p : PortId) (h : Handing) (s : State) : Host.Outcome State Fault Refusal :=
  .next (s.writeHanded p .postNote h)

/-- IDENTIFY (R160, R167). -/
def execIdentify (p : PortId) (s : State) : Host.Outcome State Fault Refusal := .next (s.writeCommand p (some .identify))

end Sys2Proof.Machine
end

