-- ==== Sys2Proof/Machine/WindowAccesses.lean ====
section
/-! DEFINITION. The accesses of a port's window other than COMMAND writes (file 06, R77, R142, R163). -/

namespace Sys2Proof.Machine

/-- An abort: a write of CONTROL (R106 to R110). A value of another row of CONTROL acts as that row says (log 13). -/
def execAbort (p : PortId) (v : Byte) (s : State) : Host.Outcome State Fault Refusal := .next (s.writeControl p v)

/-- A port reset: a write of CONTROL (R111, R112, R113). A value of another row of CONTROL acts as that row says (log 13). -/
def execPortReset (p : PortId) (v : Byte) (s : State) : Host.Outcome State Fault Refusal := .next (s.writeControl p v)

/-- A read of DATA (R103, R105). -/
def execDataRead (p : PortId) (s : State) : Host.Outcome State Fault Refusal := .next (s.onPort p Port.readData)

/-- A write of DATA (R104, R105). -/
def execDataWrite (p : PortId) (v : Byte) (s : State) : Host.Outcome State Fault Refusal :=
  .next (s.onPort p fun q => q.writeData v)

/-- A read of STATUS (R99): the byte is on the data bus, and DONE is cleared. -/
def execStatusRead (p : PortId) (s : State) : Host.Outcome State Fault Refusal :=
  .next (s.onPort p fun q => { q with dataBus := s.status p, done := false })

/-- A write of NOTE_POP, with any value (R142). -/
def execNotePop (p : PortId) (_v : Byte) (s : State) : Host.Outcome State Fault Refusal := .next (s.onPort p Port.popNote)

/-- A write of LOST (R77). -/
def execLostWrite (p : PortId) (v : Byte) (s : State) : Host.Outcome State Fault Refusal :=
  .next (s.onPort p fun q => q.writeLost v)

/-- A write of IRQEN (R114). -/
def execIrqenWrite (p : PortId) (v : Byte) (s : State) : Host.Outcome State Fault Refusal :=
  .next (s.onPort p fun q => { q with irqen := irqMask v })

/-- A write at an offset of the window (R98, R163): an argument register or an ignored offset. An offset of another row is
that row's write (log 13). -/
def execRegisterWrite (p : PortId) (offset : Fin 16) (v : Byte) (s : State) : Host.Outcome State Fault Refusal :=
  .next (s.writeWindow p offset v)

end Sys2Proof.Machine
end

