-- ==== Sys2Proof/Machine/Dispatch.lean ====
section
/-! DEFINITION. The meaning of every command, one arm per constructor. -/

namespace Sys2Proof.Machine

def exec (i : Instr) (s : State) : Host.Outcome State Fault Refusal :=
  match i with
  | .readBlocks p => Sys2Proof.Machine.execReadBlocks p s
  | .writeBlocks p => Sys2Proof.Machine.execWriteBlocks p s
  | .copyBlocks p => Sys2Proof.Machine.execCopyBlocks p s
  | .zeroBlocks p => Sys2Proof.Machine.execZeroBlocks p s
  | .verifyBlocks p => Sys2Proof.Machine.execVerifyBlocks p s
  | .badCommand p code => Sys2Proof.Machine.execBadCommand p code s
  | .acquireShared p h => Sys2Proof.Machine.execAcquireShared p h s
  | .acquireExclusive p h => Sys2Proof.Machine.execAcquireExclusive p h s
  | .upgrade p h => Sys2Proof.Machine.execUpgrade p h s
  | .downgrade p h => Sys2Proof.Machine.execDowngrade p h s
  | .release p h => Sys2Proof.Machine.execRelease p h s
  | .renew p h => Sys2Proof.Machine.execRenew p h s
  | .queryLock p h => Sys2Proof.Machine.execQueryLock p h s
  | .defineLock p h => Sys2Proof.Machine.execDefineLock p h s
  | .undefineLock p h => Sys2Proof.Machine.execUndefineLock p h s
  | .breakLock p h => Sys2Proof.Machine.execBreakLock p h s
  | .setRights p h => Sys2Proof.Machine.execSetRights p h s
  | .setArbiter p h => Sys2Proof.Machine.execSetArbiter p h s
  | .setScrub p h => Sys2Proof.Machine.execSetScrub p h s
  | .readFaultList p => Sys2Proof.Machine.execReadFaultList p s
  | .postNote p h => Sys2Proof.Machine.execPostNote p h s
  | .identify p => Sys2Proof.Machine.execIdentify p s
  | .abort p v => Sys2Proof.Machine.execAbort p v s
  | .portReset p v => Sys2Proof.Machine.execPortReset p v s
  | .dataRead p => Sys2Proof.Machine.execDataRead p s
  | .dataWrite p v => Sys2Proof.Machine.execDataWrite p v s
  | .statusRead p => Sys2Proof.Machine.execStatusRead p s
  | .notePop p v => Sys2Proof.Machine.execNotePop p v s
  | .lostWrite p v => Sys2Proof.Machine.execLostWrite p v s
  | .irqenWrite p v => Sys2Proof.Machine.execIrqenWrite p v s
  | .registerWrite p offset v => Sys2Proof.Machine.execRegisterWrite p offset v s
  | .powerOn => Sys2Proof.Machine.execPowerOn s
  | .deviceReset => Sys2Proof.Machine.execDeviceReset s
  | .tick => Sys2Proof.Machine.execTick s
  | .leaseExpiry l p => Sys2Proof.Machine.execLeaseExpiry l p s
  | .waitTimeout l p => Sys2Proof.Machine.execWaitTimeout l p s
  | .scrubRequest => Sys2Proof.Machine.execScrubRequest s
  | .poolGrant => Sys2Proof.Machine.execPoolGrant s
  | .loadEnd => Sys2Proof.Machine.execLoadEnd s
  | .storeEnd => Sys2Proof.Machine.execStoreEnd s
  | .zeroEnd => Sys2Proof.Machine.execZeroEnd s
  | .copyEnd => Sys2Proof.Machine.execCopyEnd s
  | .verifyEnd => Sys2Proof.Machine.execVerifyEnd s
  | .scrubEnd => Sys2Proof.Machine.execScrubEnd s
  | .lockEntryWithdrawal p => Sys2Proof.Machine.execLockEntryWithdrawal p s
  | .poolRequestWithdrawal r => Sys2Proof.Machine.execPoolRequestWithdrawal r s
  | .tablePortReset p => Sys2Proof.Machine.execTablePortReset p s
  | .storedBitDisturbance b g bit => Sys2Proof.Machine.execStoredBitDisturbance b g bit s
  | .handedRequestArrival p => Sys2Proof.Machine.execHandedRequestArrival p s
  | .handedRequestWithdrawal p => Sys2Proof.Machine.execHandedRequestWithdrawal p s
  | .poolRequestArrival p => Sys2Proof.Machine.execPoolRequestArrival p s

end Sys2Proof.Machine
end

