-- ==== Sys2Proof/Safety.lean ====
section
/-! DEFINITION. What counts as a sound state of the ABP418: the invariants the manual states of it, in the terms claims use,
the runs from power-on, and the terms in which statements say what a command leaves unchanged. -/

namespace Sys2Proof.Machine

/-! ## The pool -/

/-- The fault list holds distinct POISONED blocks, 16 at most (R13), the stored bytes have their canonical form, and so has
the record of wrong bits. -/
abbrev Pool.sound (P : Pool) : Prop :=
  Memory.wf P.mem ∧ P.wrong.Pairwise (· < ·) ∧ P.faults.Nodup ∧ P.faults.length ≤ 16 ∧
    ∀ b ∈ P.faults, P.stateOf b = .poisoned

/-- Every stored byte of a GOOD block is known: the block was written completely (1.2, R3). -/
abbrev Pool.goodKnown (P : Pool) : Prop :=
  ∀ b : BlockNo, P.stateOf b = .good → ∀ j < 144, (Memory.byteAt? P.mem (storeAddr b j)).isSome

/-! ## The lock table -/

/-- The mode describes the holder set, and an undefined lock is FREE with an empty queue (R19); its range and lease length
are 0 (R18, R27, R33); leases are absent exactly while the lease length is 0 (R18, R65). -/
abbrev Lock.sound (k : Lock) : Prop :=
  (k.mode = .free ↔ k.holderList = []) ∧ (k.mode = .exclusive → k.holderList.length = 1) ∧
    (k.defined = false → k = Lock.reset) ∧
    ∀ p : PortId, ∀ h : Hold, k.holders[p] = some h → (h.lease = none ↔ k.lease = 0)

/-- A defined lock covers 1 to 255 blocks of the pool (R18, R25). -/
abbrev Lock.rangeSound (k : Lock) : Prop := k.defined = true → k.count ≠ 0 ∧ k.first.toNat + k.count.toNat ≤ 512

/-- The waiters of a lock (R36, R37): no port twice; a SHARED or EXCLUSIVE waiter is no holder; an UPGRADE waiter is the
head and holds the lock SHARED. -/
abbrev Lock.queueSound (k : Lock) : Prop :=
  (k.queue.map Waiter.port).Nodup ∧ (∀ w ∈ k.queue, w.want ≠ .upgrade → k.holds w.port = false) ∧
    (∀ w ∈ k.queue, w.want = .upgrade → k.queue.head? = some w ∧ k.holds w.port = true ∧ k.mode = .shared)

/-- The head waiter is not grantable (R38). -/
abbrev Lock.settled (k : Lock) : Prop := ∀ w : Waiter, k.queue.head? = some w → k.grantable w = false

/-- No block is covered by two defined locks (R25). -/
abbrev State.rangesDisjoint (s : State) : Prop :=
  ∀ l m : LockId, l ≠ m → (s.lockAt l).defined = true → (s.lockAt m).meets (s.lockAt l).first (s.lockAt l).count = false

/-- A port is in at most one queue, and in one exactly while its state is WAITLOCK (R36). -/
abbrev State.waitersSound (s : State) : Prop :=
  (∀ p : PortId, (s.port p).state = .waitLock ↔ ∃ l : LockId, (s.lockAt l).waits p = true) ∧
    ∀ (p : PortId) (l m : LockId), (s.lockAt l).waits p = true → (s.lockAt m).waits p = true → l = m

/-- The waits-for relation contains no cycle (R55). -/
abbrev State.noCycle (s : State) : Prop := ∀ p : PortId, s.reaches 4 p p = false

/-! ## The port units -/

/-- The staging index is at most 128, and under 128 in a data phase (R102); IRQEN has its three bits 0 (R114); a note queue
holds at most 8 notes (R137). -/
abbrev Port.bounded (q : Port) : Prop :=
  q.index ≤ 128 ∧ (q.state = .dataIn ∨ q.state = .dataOut → q.index < 128) ∧ irqMask q.irqen = q.irqen ∧ q.notes.length ≤ 8

/-- DONE and ERR never stand with BUSY, DATA or WAIT (R164); a READY port has no command, no request on its way and no held
action (R93, R101), and another one has a command; a request is on its way only in EXEC, a held action stands only where
there is something to wait for (R92), a port reset never for a handed request (R111). -/
abbrev Port.sound (q : Port) : Prop :=
  (q.done = true ∨ q.kind ≠ .none → q.state = .ready) ∧
    (q.state = .ready → q.running = none ∧ q.outgoing = none ∧ q.held = none) ∧ (q.state ≠ .ready → q.running.isSome) ∧
    (q.outgoing.isSome → q.state = .exec) ∧ (q.held.isSome → q.state = .exec ∨ q.state = .waitLock ∨ q.state = .aborting) ∧
    (q.state = .waitLock → q.held ≠ some .portReset) ∧ (q.state = .aborting → q.held.isSome) ∧
    (∀ r : HandedRequest, q.outgoing = some (.handed r) → q.held ≠ some .portReset)

/-- A handed DEFINE LOCK has passed its range check (R24). -/
abbrev Port.defineChecked (q : Port) : Prop :=
  ∀ (l : LockId) (f : BlockNo) (n e : Byte), q.outgoing = some (.handed (.defineLock l f n e)) →
    n ≠ 0 ∧ f.toNat + n.toNat ≤ 512

/-! ## Requests, the arbiter and the scrubber -/

/-- Whether a port's request is on its way to another block. -/
def Port.requestLeaves (q : Port) : Bool := q.outgoing.isSome

/-- A port has at most one request outstanding, at one block, or one transfer in flight (R79, R92): in EXEC exactly one of a
request on its way, a request waiting at the arbiter and a transfer in flight; a transfer alone in ABORTING; none in
another state. -/
abbrev State.oneRequest (s : State) (p : PortId) : Prop :=
  ((s.port p).state = .exec →
      (s.port p).requestLeaves.toNat + (s.arbiter.waiting[p].isSome).toNat + (s.inFlight p).toNat = 1 ∧
        (s.inFlight p = true → (s.port p).held = none)) ∧
    ((s.port p).state = .aborting →
      (s.port p).requestLeaves = false ∧ s.arbiter.waiting[p].isSome = false ∧ s.inFlight p = true) ∧
    ((s.port p).state ≠ .exec → (s.port p).state ≠ .aborting →
      (s.port p).requestLeaves = false ∧ s.arbiter.waiting[p].isSome = false ∧ s.inFlight p = false)

/-- The scrub-wait count (R80, R84), and no request waits while the controller is IDLE (R81). -/
abbrev State.arbiterSound (s : State) : Prop :=
  s.arbiter.scrubWait ≤ 16 ∧ (s.arbiter.scrubReq = none → s.arbiter.scrubWait = 0) ∧
    (s.pool.transfer = none → s.arbiter.choose = none)

/-- Whether a scrub transfer is in flight. -/
def State.scrubs (s : State) : Bool :=
  match s.pool.transfer with
  | some t => t.requester = .scrubber
  | none => false

/-- The phases of the scrubber (R147). -/
abbrev State.scrubberSound (s : State) : Prop :=
  (s.scrubber.phase = .off → s.scrubber.interval = 0) ∧
    (s.scrubber.phase = .timing ∨ s.scrubber.phase = .requested → s.scrubber.interval ≠ 0) ∧
    (s.scrubber.timer.isSome = true ↔ s.scrubber.phase = .timing) ∧
    (s.scrubber.phase = .requested → s.arbiter.scrubReq = some s.scrubber.position) ∧
    (s.scrubber.phase ≠ .requested → s.arbiter.scrubReq = none) ∧ (s.scrubs = true ↔ s.scrubber.phase = .scrubbing)

/-! ## The whole part -/

/-- Everything the manual states of the lock table and of the ports that wait on it, at every event. -/
abbrev State.tableSound (s : State) : Prop :=
  (∀ l : LockId, (s.lockAt l).sound ∧ (s.lockAt l).rangeSound ∧ (s.lockAt l).queueSound ∧ (s.lockAt l).settled) ∧
    s.rangesDisjoint ∧ s.waitersSound ∧ s.noCycle

/-- Everything the manual states of the port units, their requests, the arbiter and the scrubber, at every event. -/
abbrev State.unitsSound (s : State) : Prop :=
  (∀ p : PortId, (s.port p).bounded ∧ (s.port p).sound ∧ (s.port p).defineChecked ∧ s.oneRequest p) ∧
    s.arbiterSound ∧ s.scrubberSound

/-- A sound state of the part. -/
abbrev State.sound (s : State) : Prop := s.pool.sound ∧ s.pool.goodKnown ∧ s.tableSound ∧ s.unitsSound

/-- The states the part comes to from power-on by commands of any agents, in any order. -/
inductive State.Reached : State → Prop
  | powerOn : State.Reached State.reset
  | command (c : Instr) {s t : State} : State.Reached s → exec c s = .next t → State.Reached t

/-! ## Terms of the statements -/

/-- Two states differ at most at the port units and the lock records listed: every other port unit and lock record, the pool
with every byte of its storage, the arbiter, the scrubber, the rights, the tick number and the queue are the same. -/
abbrev State.sameBut (s t : State) (ports : List PortId) (locks : List LockId) : Prop :=
  (∀ q : PortId, q ∉ ports → t.port q = s.port q) ∧ (∀ l : LockId, l ∉ locks → t.lockAt l = s.lockAt l) ∧
    t.pool = s.pool ∧ t.arbiter = s.arbiter ∧ t.scrubber = s.scrubber ∧ t.rights = s.rights ∧ t.now = s.now ∧
    t.pending = s.pending

/-- A port unit whose COMMAND write was accepted and ended with a kind at the same event (R94, R101). -/
def Port.answered (q : Port) (k : ErrorKind) : Port :=
  { q with
    state := .ready, done := true, kind := k, corr := false, rej := false, running := none, outgoing := none, held := none }

/-- Port `p` is READY and its LOCK register names lock `l`. -/
abbrev State.asks (s : State) (p : PortId) (l : LockId) : Prop :=
  (s.port p).state = .ready ∧ (s.port p).lock.toNat = l.val

/-- Port `b` is reachable from port `a` along one or more edges of waits-for (R53, R54). -/
abbrev State.reachable (s : State) (a b : PortId) : Prop :=
  Relation.TransGen (fun w h => s.waitsFor w h = true) a b

/-- No request waits at the arbiter. -/
abbrev State.noneWaits (s : State) : Prop :=
  (∀ q : PortId, s.arbiter.waiting[q] = none) ∧ s.arbiter.scrubReq = none

/-- A lock record that a port reset of `p` finds: where `p` holds it or waits on it, `p` leaves both and the queue is
re-examined (R34). Answers the record and the ports granted. -/
def Lock.withoutPort (k : Lock) (p : PortId) (lease : Option Tick) : Lock × List PortId :=
  if k.holds p || k.waits p then
    Lock.admitFrom lease (k.queue.filter fun w => w.port ≠ p) (if k.holds p then k.dropHold p else k)
  else (k, [])

/-- What the effect of a port reset of `p` between two ticks leaves of the ports and the locks (R34, R112, R113). -/
abbrev State.resetOf (s t : State) (p : PortId) : Prop :=
  let parted : LockId → Lock × List PortId := fun l =>
    (s.lockAt l).withoutPort p (s.leaseDeadline .betweenTicks (s.lockAt l).lease)
  t.port p = Port.reset ∧ (∀ l : LockId, t.lockAt l = (parted l).1) ∧
    (∀ q : PortId, q ≠ p → (∃ l : LockId, q ∈ (parted l).2) → t.port q = (s.port q).complete .none) ∧
    (∀ q : PortId, q ≠ p → (∀ l : LockId, q ∉ (parted l).2) → t.port q = s.port q)

/-- Every byte stored outside the storage of one block reads as before. -/
abbrev Pool.bytesKeptOutside (P P' : Pool) (b : BlockNo) : Prop :=
  ∀ a : Nat, (∀ j < 144, a ≠ storeAddr b j) → Memory.byteAt? P'.mem a = Memory.byteAt? P.mem a

/-- Block `b` holds `data` with its 16 check bytes and reads as GOOD, and every byte outside its storage is as before. -/
abbrev Pool.holdsAfter (P P' : Pool) (b : BlockNo) (data : Bytes) : Prop :=
  (∀ j : Fin 128, Memory.byteAt? P'.mem (storeAddr b j.val) = some data[j]) ∧
    (∀ g : Fin 16, Memory.byteAt? P'.mem (storeAddr b (128 + g.val)) =
      some (Config.checkByte (wordOf fun i => data[8 * g.val + i]?.getD 0))) ∧
    P.bytesKeptOutside P' b ∧ P'.stateOf b = .good ∧ (∀ c : BlockNo, c ≠ b → P'.stateOf c = P.stateOf c)

end Sys2Proof.Machine
end

