-- ==== Sys2Proof/WellFormed.lean ====
section
/-! DEFINITION. Which terms of `Instr` are commands of their row. Bounds on ports, locks, blocks and bits are in the types. -/

namespace Sys2Proof

/-- The offsets at which REGISTER_WRITE's row stands: the argument registers and the offsets whose write is ignored
(R98, R163). -/
def registerWriteOffsets : List (Fin 16) := [1, 2, 3, 4, 5, 6, 7, 0xA, 0xD, 0xE]

/-- A term is a command of its row:
BAD_COMMAND's code is no command code (R95), ABORT's value has ABORT set and PRESET clear, PORT_RESET's has PRESET set
(R106), and REGISTER_WRITE stands at an argument register or an ignored offset, or writes CONTROL with neither bit set
(R98, R106, R163). -/
def Instr.wellFormed : Instr → Bool
  | .badCommand _ code => (commandOfCode code).isNone
  | .abort _ v => v.getLsbD 0 && !v.getLsbD 1
  | .portReset _ v => v.getLsbD 1
  | .registerWrite _ o v => registerWriteOffsets.contains o || (o == 9 && !v.getLsbD 0 && !v.getLsbD 1)
  | .readBlocks _ | .writeBlocks _ | .copyBlocks _ | .zeroBlocks _ | .verifyBlocks _ => true
  | .acquireShared _ _ | .acquireExclusive _ _ | .upgrade _ _ | .downgrade _ _ | .release _ _ | .renew _ _ => true
  | .queryLock _ _ | .defineLock _ _ | .undefineLock _ _ | .breakLock _ _ => true
  | .setRights _ _ | .setArbiter _ _ | .setScrub _ _ | .readFaultList _ | .postNote _ _ | .identify _ => true
  | .dataRead _ | .dataWrite _ _ | .statusRead _ | .notePop _ _ | .lostWrite _ _ | .irqenWrite _ _ => true
  | .powerOn | .deviceReset | .tick | .leaseExpiry _ _ | .waitTimeout _ _ | .scrubRequest => true
  | .poolGrant | .loadEnd | .storeEnd | .zeroEnd | .copyEnd | .verifyEnd | .scrubEnd => true
  | .lockEntryWithdrawal _ | .poolRequestWithdrawal _ | .tablePortReset _ | .storedBitDisturbance _ _ _ => true
  | .handedRequestArrival _ | .handedRequestWithdrawal _ | .poolRequestArrival _ => true

end Sys2Proof
end

