-- ==== Sys2Proof/Certificates/Slice0/Obligations.lean ====
section
/-! DEFINITION. The statements about the ABP418 model, for the provers. -/

open Sys2Proof Sys2Proof.Machine

/-! ## The queue of commands, reset, codes -/

/-- A step takes the command at the front of the queue and is `exec` of it with the queue's rest; with no command waiting the
part idles (the model's choice, log 2). Every command of the table answers a next state in every state (the model's reading: the
manual names no condition that stops the part, log 18), and no command touches the queue, neither reset (the model's choice,
log 14). -/
def Obligations.StepRunsTheFrontCommand : Prop :=
  ((∀ (c : Instr) (rest : List Instr) (s : State), step { s with pending := c :: rest } = exec c { s with pending := rest }) ∧
    ∀ s : State, s.pending = [] → step s = .next s) ∧
  (∀ (c : Instr) (s : State), ∃ t : State, exec c s = .next t ∧ t.pending = s.pending)

/-- What every window reads after power-on (R163), and the power-on values of the blocks behind it (R16, R33, R80, R146,
R147, R154).
The model's log entries it rests on: 27. -/
def Obligations.PowerOnValues : Prop :=
  let s := State.reset
  (∀ (p : PortId) (o : Fin 16), s.readWindow p o = if o = 0xC ∨ o = 0xF then 0xFF else 0x00) ∧
    (∀ p : PortId, (s.port p).state = .ready ∧ (s.port p).index = 0 ∧ (s.port p).staging = Vector.replicate 128 0 ∧
      (s.port p).running = none ∧ (s.port p).held = none ∧ s.irq p = false) ∧
    (∀ l : LockId, s.lockAt l = ⟨false, 0, 0, 0, .free, Vector.replicate 4 none, []⟩) ∧
    (∀ b : BlockNo, s.pool.stateOf b = .unwritten) ∧ (∀ a : Nat, Memory.byteAt? s.pool.mem a = none) ∧
    s.pool.faults = [] ∧ s.pool.overflow = false ∧ s.pool.corrected = 0 ∧ s.pool.transfer = none ∧
    s.arbiter = ⟨.rotate, 3, 0, Vector.replicate 4 none, none⟩ ∧ s.scrubber = ⟨0, 0, .off, none⟩ ∧
    (∀ p : PortId, s.rights.holds p = (p == 0)) ∧ s.pending = []

/-- The state after power-on is sound. -/
def Obligations.PowerOnStateIsSound : Prop := State.reset.sound

/-- A byte names a command exactly if it is that command's code (R165), and the 21 codes are those of R165. -/
def Obligations.CommandCodesAgree : Prop :=
  (∀ (v : Byte) (c : Command), commandOfCode v = some c ↔ c.code = v) ∧
    [Command.readBlocks, .writeBlocks, .copyBlocks, .zeroBlocks, .verifyBlocks].map Command.code =
      [0x10, 0x11, 0x12, 0x13, 0x14] ∧
    [Command.acquireShared, .acquireExclusive, .upgrade, .downgrade, .release, .renew, .queryLock].map Command.code =
      [0x20, 0x21, 0x22, 0x23, 0x24, 0x25, 0x26] ∧
    [Command.defineLock, .undefineLock, .breakLock, .setRights, .setArbiter, .setScrub, .readFaultList].map Command.code =
      [0x30, 0x31, 0x32, 0x33, 0x34, 0x35, 0x36] ∧
    [Command.postNote, .identify].map Command.code = [0x40, 0x50]

/-! ## Acceptance -/

/-- A COMMAND write of any code at a port that is not READY sets REJ and changes nothing else (R97). -/
def Obligations.CommandWriteWhileBusySetsRej : Prop :=
  ∀ (i : Instr) (p : PortId) (v : Byte) (s : State), i.hostPort = some p → i.codeWritten = some v →
    (s.port p).state ≠ .ready →
    ∃ t, exec i s = .next t ∧ t.port p = { s.port p with rej := true } ∧ s.sameBut t [p] []

/-- A COMMAND write that a READY port refuses ends at acceptance, and nothing but its own report changes: a byte that is no
command code ends BAD_COMMAND whatever the arguments hold, then a missing right ends NO_RIGHT whatever they hold, then
arguments out of range end BAD_PARAM; with the rights and the ranges each command needs (R94, R95, R154, R155). -/
def Obligations.AcceptanceRefusals : Prop :=
  (∀ (i : Instr) (p : PortId) (v : Byte) (s : State), i.hostPort = some p → i.codeWritten = some v →
    (s.port p).state = .ready →
    (commandOfCode v = none →
      ∃ t, exec i s = .next t ∧ t.port p = (s.port p).answered .badCommand ∧ s.sameBut t [p] []) ∧
    (∀ c : Command, commandOfCode v = some c → s.hasRight p c = false →
      ∃ t, exec i s = .next t ∧ t.port p = (s.port p).answered .noRight ∧ s.sameBut t [p] []) ∧
    (∀ c : Command, commandOfCode v = some c → s.hasRight p c = true → (s.port p).argumentsInRange c = false →
      ∃ t, exec i s = .next t ∧ t.port p = (s.port p).answered .badParam ∧ s.sameBut t [p] [])) ∧
  (∀ (s : State) (p : PortId),
    let q := s.port p
    (s.rights.holds 0 = true) ∧ (s.hasRight p .setRights = true ↔ p = 0) ∧
    (∀ c ∈ [Command.defineLock, .undefineLock, .breakLock, .setArbiter, .setScrub, .readFaultList],
      s.hasRight p c = s.rights.holds p) ∧
    (∀ c ∈ [Command.readBlocks, .writeBlocks, .copyBlocks, .zeroBlocks, .verifyBlocks, .acquireShared, .acquireExclusive,
        .upgrade, .downgrade, .release, .renew, .queryLock, .postNote, .identify], s.hasRight p c = true) ∧
    (∀ c ∈ [Command.readBlocks, .writeBlocks, .zeroBlocks, .verifyBlocks],
      q.argumentsInRange c = true ↔ 1 ≤ q.count.toNat ∧ q.block.toNat + q.count.toNat ≤ 512) ∧
    (q.argumentsInRange .copyBlocks = true ↔
      1 ≤ q.count.toNat ∧ q.block.toNat + q.count.toNat ≤ 512 ∧ q.dest.toNat + q.count.toNat ≤ 512) ∧
    (∀ c ∈ [Command.acquireShared, .acquireExclusive, .upgrade, .downgrade, .release, .renew, .queryLock, .undefineLock,
        .breakLock], q.argumentsInRange c = true ↔ q.lock.toNat ≤ 31) ∧
    (q.argumentsInRange .defineLock = true ↔
      q.lock.toNat ≤ 31 ∧ 1 ≤ q.count.toNat ∧ q.block.toNat + q.count.toNat ≤ 512) ∧
    (q.argumentsInRange .setRights = true ↔ 1 ≤ q.lock.toNat ∧ q.lock.toNat ≤ 3 ∧ q.param.toNat ≤ 1) ∧
    (q.argumentsInRange .setArbiter = true ↔ q.param.toNat ≤ 1) ∧ (q.argumentsInRange .postNote = true ↔ q.lock.toNat ≤ 3) ∧
    (∀ c ∈ [Command.setScrub, .readFaultList, .identify], q.argumentsInRange c = true))

/-! ## Block commands begin -/

/-- A block command with its runs in range begins: READ BLOCKS, ZERO BLOCKS and VERIFY BLOCKS in EXEC with the request of
their first block on its way; WRITE BLOCKS in DATA_OUT with the index at 0; COPY BLOCKS in EXEC with the request of the last
pair, BLOCK and DEST moved there, if DEST lies above BLOCK inside the source run, of the first pair otherwise (R94, R96, R117,
R118, R121, R123, R125).
The model's log entries it rests on: 5. -/
def Obligations.BlockCommandsBegin : Prop :=
  (∀ (s : State) (p : PortId), (s.port p).state = .ready → (s.port p).count ≠ 0 →
    (s.port p).block.toNat + (s.port p).count.toNat ≤ 512 →
    (∀ x ∈ [(Instr.readBlocks p, Command.readBlocks, TransferKind.load), (.zeroBlocks p, .zeroBlocks, .zero),
        (.verifyBlocks p, .verifyBlocks, .verify)],
      ∃ t, exec x.1 s = .next t ∧
        t.port p = { s.port p with
          state := .exec, done := false, kind := .none, corr := false, rej := false, running := some ⟨x.2.1, .ascending⟩,
          outgoing := some (.pool ⟨x.2.2, (s.port p).block, none⟩) } ∧ s.sameBut t [p] []) ∧
    ∃ t, exec (.writeBlocks p) s = .next t ∧
      t.port p = { s.port p with
        state := .dataOut, index := 0, done := false, kind := .none, corr := false, rej := false,
        running := some ⟨.writeBlocks, .ascending⟩ } ∧ s.sameBut t [p] []) ∧
  (∀ (s : State) (p : PortId),
    let q := s.port p
    let b := q.block.toNat
    let d := q.dest.toNat
    let n := q.count.toNat
    q.state = .ready → 1 ≤ n → b + n ≤ 512 → d + n ≤ 512 →
    (b < d ∧ d ≤ b + n - 1 →
      ∃ t, exec (.copyBlocks p) s = .next t ∧
        t.port p = { q with
          state := .exec, done := false, kind := .none, corr := false, rej := false,
          block := BitVec.ofNat 9 (b + n - 1), dest := BitVec.ofNat 9 (d + n - 1),
          running := some ⟨.copyBlocks, .descending⟩,
          outgoing := some (.pool ⟨.copy, BitVec.ofNat 9 (b + n - 1), some (BitVec.ofNat 9 (d + n - 1))⟩) } ∧
        s.sameBut t [p] []) ∧
    (¬ (b < d ∧ d ≤ b + n - 1) →
      ∃ t, exec (.copyBlocks p) s = .next t ∧
        t.port p = { q with
          state := .exec, done := false, kind := .none, corr := false, rej := false,
          running := some ⟨.copyBlocks, .ascending⟩, outgoing := some (.pool ⟨.copy, q.block, some q.dest⟩) } ∧
        s.sameBut t [p] []))

/-- In the direction COPY BLOCKS chooses, no pair reads a block that an earlier pair of the command has written (R117,
R126). -/
def Obligations.CopyNeverReadsAWrittenBlock : Prop :=
  ∀ (q : Port) (i j : Nat), i < j → j < q.count.toNat → q.argumentsInRange .copyBlocks = true →
    if q.copiesDown then q.block.toNat + i ≠ q.dest.toNat + j else q.block.toNat + j ≠ q.dest.toNat + i

/-! ## Records -/

/-- IDENTIFY captures the identify record into staging and opens a data phase (R160, R166, R167). -/
def Obligations.IdentifyRecord : Prop :=
  ∀ (s : State) (p : PortId), (s.port p).state = .ready →
    ∃ t, exec (.identify p) s = .next t ∧ s.sameBut t [p] [] ∧
      t.port p = { s.port p with
        state := .dataIn, index := 0, done := false, kind := .none, corr := false, rej := false,
        running := some ⟨.identify, .ascending⟩, staging := (t.port p).staging } ∧
      ∀ j : Fin 128, (t.port p).staging[j] =
        match j.val with
        | 0 => 0x4D
        | 1 => 0x04
        | 2 => 0x18
        | 3 => 0x01
        | 4 => BitVec.ofNat 8 p.val
        | 5 => if s.rights.holds p then 1 else 0
        | 6 => if s.arbiter.mode = .fixed then 1 else 0
        | 7 => s.scrubber.interval
        | 8 => BitVec.ofNat 8 s.scrubber.position.toNat
        | 9 => BitVec.ofNat 8 (s.scrubber.position.toNat / 256)
        | 10 => 0x00
        | 11 => 0x02
        | 12 => 0x80
        | 13 => 0x20
        | 14 => 0x08
        | 15 => BitVec.ofNat 8 (s.pool.countState .poisoned)
        | 16 => BitVec.ofNat 8 (s.pool.countState .poisoned / 256)
        | 17 => BitVec.ofNat 8 (s.pool.countState .unwritten)
        | 18 => BitVec.ofNat 8 (s.pool.countState .unwritten / 256)
        | _ => 0x00

/-- READ FAULT LIST of a port with the SETUP right captures the fault list record, opens a data phase, and clears the
overflow mark and the corrected-group count exactly if PARAM bit 0 is set; list, map and stored bytes stay (R158, R159, R166,
R169). -/
def Obligations.FaultListRecord : Prop :=
  ∀ (s : State) (p : PortId), (s.port p).state = .ready → s.rights.holds p = true → s.pool.faults.length ≤ 16 →
    ∃ t, exec (.readFaultList p) s = .next t ∧
      t.pool = { s.pool with
        overflow := if (s.port p).param.getLsbD 0 then false else s.pool.overflow
        corrected := if (s.port p).param.getLsbD 0 then 0 else s.pool.corrected } ∧
      s.sameBut { t with pool := s.pool } [p] [] ∧
      t.port p = { s.port p with
        state := .dataIn, index := 0, done := false, kind := .none, corr := false, rej := false,
        running := some ⟨.readFaultList, .ascending⟩, staging := (t.port p).staging } ∧
      (t.port p).staging[0] = BitVec.ofNat 8 s.pool.faults.length ∧
      (t.port p).staging[1] = (if s.pool.overflow then 1 else 0) ∧
      (t.port p).staging[2] = BitVec.ofNat 8 s.pool.corrected.toNat ∧
      (t.port p).staging[3] = BitVec.ofNat 8 (s.pool.corrected.toNat / 256) ∧
      (∀ i : Fin 62, (t.port p).staging[4 + 2 * i.val]'(by omega) =
        match s.pool.faults[i.val]? with
        | none => 0
        | some b => BitVec.ofNat 8 b.toNat) ∧
      ∀ i : Fin 62, (t.port p).staging[5 + 2 * i.val]'(by omega) =
        match s.pool.faults[i.val]? with
        | none => 0
        | some b => BitVec.ofNat 8 (b.toNat / 256)

/-! ## Requests handed to another block -/

/-- A command that another block decides, accepted and left outstanding: the port is in EXEC with the request on its way,
carrying its arguments as they stand (R24, R35, R96, R137; log 4). -/
def Obligations.HandedCommandsBegin : Prop :=
  ∀ (s : State) (p : PortId),
    let q := s.port p
    let l : LockId := Fin.ofNat 32 q.lock.toNat
    let target : PortId := Fin.ofNat 4 q.lock.toNat
    q.state = .ready →
    ∀ x ∈ [(Instr.acquireShared p .outstanding, Command.acquireShared, HandedRequest.acquireShared l q.param),
        (.acquireExclusive p .outstanding, .acquireExclusive, .acquireExclusive l q.param),
        (.upgrade p .outstanding, .upgrade, .upgrade l q.param), (.downgrade p .outstanding, .downgrade, .downgrade l),
        (.release p .outstanding, .release, .release l), (.renew p .outstanding, .renew, .renew l),
        (.queryLock p .outstanding, .queryLock, .queryLock l),
        (.defineLock p .outstanding, .defineLock, .defineLock l q.block q.count (q.dest.setWidth 8)),
        (.undefineLock p .outstanding, .undefineLock, .undefineLock l),
        (.breakLock p .outstanding, .breakLock, .breakLock l),
        (.setRights p .outstanding, .setRights, .setRights target (q.param = 1)),
        (.setArbiter p .outstanding, .setArbiter, .setArbiter (q.param = 1)),
        (.setScrub p .outstanding, .setScrub, .setScrub q.param),
        (.postNote p .outstanding, .postNote, .postNote target q.param (q.dest.setWidth 8))],
      s.hasRight p x.2.1 = true → q.argumentsInRange x.2.1 = true →
      ∃ t, exec x.1 s = .next t ∧
        t.port p = { q with
          state := .exec, done := false, kind := .none, corr := false, rej := false,
          running := some ⟨x.2.1, .ascending⟩, outgoing := some (.handed x.2.2) } ∧ s.sameBut t [p] []

/-- A command taken at once is the same command left outstanding, followed by the arrival of its request (R96; log 4). A request
that arrives is taken whole by its block, with or without an abort held (R109): the lock table's decisions of an ACQUIRE (R41 to
R44), UPGRADE (R46 to R48), DOWNGRADE (R50), RELEASE (R51), RENEW (R66), DEFINE LOCK (R24), UNDEFINE LOCK (R27) and BREAK LOCK
(R29), the rights (R155), the arbiter mode (R90), the scrub interval (R151), and a note (R140); an answer ends the command and
stands, also against a held abort, and a placed entry leaves the port in WAITLOCK with what it held. The snapshot of a QUERY LOCK
is offered, but with an abort held it is discarded and the command ends ABORTED (R31, R109). Without a handed request on its way
an arrival changes nothing (the model's choice, log 3).
The model's log entries it rests on: 3, 4, 8, 15, 17, 23, 24. -/
def Obligations.TakenAtOnceIsOutstandingThenArrival : Prop :=
  (∀ (s : State) (p : PortId),
    ∀ f ∈ [Instr.acquireShared p, Instr.acquireExclusive p, Instr.upgrade p, Instr.downgrade p, Instr.release p,
        Instr.renew p, Instr.queryLock p, Instr.defineLock p, Instr.undefineLock p, Instr.breakLock p, Instr.setRights p,
        Instr.setArbiter p, Instr.setScrub p, Instr.postNote p],
      (s.port p).state = .ready →
      ∃ t u, exec (f .outstanding) s = .next t ∧ exec (.handedRequestArrival p) t = .next u ∧
        exec (f .takenAtOnce) s = .next u) ∧
  (∀ (s : State) (p : PortId), (∀ r : HandedRequest, (s.port p).outgoing ≠ some (.handed r)) →
    exec (.handedRequestArrival p) s = .next s) ∧
  (∀ (s : State) (p : PortId) (l : LockId) (limit : Byte),
    let q := s.port p
    let k := s.lockAt l
    let held := k.holders.set p (some ⟨s.leaseDeadline .betweenTicks k.lease⟩)
    let d := s.waitDeadline .betweenTicks limit
    let closes := ∃ h : PortId, h ≠ p ∧ k.holds h = true ∧ s.reachable h p
    let ends : ErrorKind → Prop := fun e =>
      ∃ t, exec (.handedRequestArrival p) s = .next t ∧ t.port p = q.complete e ∧ s.sameBut t [p] []
    let granted : LockMode → Prop := fun m =>
      ∃ t, exec (.handedRequestArrival p) s = .next t ∧ t.port p = q.complete .none ∧
        t.lockAt l = { k with mode := m, holders := held } ∧ s.sameBut t [p] [l]
    let waits : List Waiter → Prop := fun queue =>
      (limit = 0 → ends .wouldWait) ∧ (limit ≠ 0 → closes → ends .deadlock) ∧
      (limit ≠ 0 → ¬ closes → ∃ t, exec (.handedRequestArrival p) s = .next t ∧
        t.port p = { q with state := .waitLock, outgoing := none } ∧ t.lockAt l = { k with queue := queue } ∧
        s.sameBut t [p] [l])
    (∀ x ∈ [(HandedRequest.acquireShared l limit, Wanted.shared, decide (k.queue = [] ∧ k.mode ≠ .exclusive)),
        (.acquireExclusive l limit, .exclusive, decide (k.mode = .free))],
      q.outgoing = some (.handed x.1) →
      (k.defined = false → ends .notDefined) ∧
      (k.defined = true → k.holds p = true → ends .alreadyHeld) ∧
      (k.defined = true → k.holds p = false → x.2.2 = true → granted x.2.1.mode) ∧
      (k.defined = true → k.holds p = false → x.2.2 = false → waits (k.queue ++ [⟨p, x.2.1, d⟩]))) ∧
    (q.outgoing = some (.handed (.upgrade l limit)) →
      (k.defined = false → ends .notDefined) ∧
      (k.defined = true → k.holds p = true → k.mode = .exclusive → ends .alreadyHeld) ∧
      (k.defined = true → k.holds p = false → ends .notHeld) ∧
      (k.defined = true → k.holds p = true → k.mode ≠ .exclusive →
        (k.holderList = [p] → granted .exclusive) ∧
        (k.holderList ≠ [p] → (∃ w ∈ k.queue, w.want = .upgrade) → ends .upgradeConflict) ∧
        (k.holderList ≠ [p] → (∀ w ∈ k.queue, w.want ≠ .upgrade) → waits (⟨p, .upgrade, d⟩ :: k.queue))))) ∧
  (∀ (s : State) (p : PortId) (l : LockId),
    let q := s.port p
    let k := s.lockAt l
    let ends : ErrorKind → Prop := fun e =>
      ∃ t, exec (.handedRequestArrival p) s = .next t ∧ t.port p = q.complete e ∧ s.sameBut t [p] []
    let released := { k with
      holders := k.holders.set p none
      mode := if ∀ h : PortId, h ≠ p → k.holds h = false then LockMode.free else k.mode }
    (∀ x ∈ [(HandedRequest.release l, k.holds p, released),
        (.downgrade l, decide (k.holds p = true ∧ k.mode = .exclusive), { k with mode := .shared })],
      q.outgoing = some (.handed x.1) →
      (k.defined = false → ends .notDefined) ∧ (k.defined = true → x.2.1 = false → ends .notHeld) ∧
      (k.defined = true → x.2.1 = true →
        let r := Lock.admitFrom (s.leaseDeadline .betweenTicks k.lease) k.queue x.2.2
        ∃ t, exec (.handedRequestArrival p) s = .next t ∧ t.lockAt l = r.1 ∧ t.port p = q.complete .none ∧
          (∀ i ∈ r.2, i ≠ p → t.port i = (s.port i).complete .none) ∧ s.sameBut t (p :: r.2) [l])) ∧
    (q.outgoing = some (.handed (.renew l)) →
      (k.defined = false → ends .notDefined) ∧ (k.defined = true → k.holds p = false → ends .notHeld) ∧
      (k.defined = true → k.holds p = true → k.lease = 0 → ends .none) ∧
      (k.defined = true → k.holds p = true → k.lease ≠ 0 →
        ∃ t, exec (.handedRequestArrival p) s = .next t ∧ t.port p = q.complete .none ∧
          t.lockAt l = { k with holders := k.holders.set p (some ⟨some (s.now + 10 * k.lease.toNat + 1)⟩) } ∧
          s.sameBut t [p] [l])) ∧
    (q.outgoing = some (.handed (.queryLock l)) →
      (k.defined = false → ends .notDefined) ∧
      (k.defined = true → q.held ≠ some .abort → ∃ t, exec (.handedRequestArrival p) s = .next t ∧
        t.port p = { q with state := .dataIn, index := 0, outgoing := none, staging := s.lockRecord l } ∧ s.sameBut t [p] []) ∧
      (k.defined = true → q.held = some .abort → ∃ t, exec (.handedRequestArrival p) s = .next t ∧
        t.port p = { q.complete .aborted with index := 0, staging := (t.port p).staging } ∧ s.sameBut t [p] [])) ∧
    (∀ (f : BlockNo) (n e : Byte), q.outgoing = some (.handed (.defineLock l f n e)) →
      let shares := ∃ (i : LockId) (b : BlockNo), i ≠ l ∧ (s.lockAt i).covers b = true ∧ f.toNat ≤ b.toNat ∧
        b.toNat < f.toNat + n.toNat
      (k.defined = true → ends .defined) ∧ (k.defined = false → shares → ends .overlap) ∧
      (k.defined = false → ¬ shares → ∃ t, exec (.handedRequestArrival p) s = .next t ∧ t.port p = q.complete .none ∧
        t.lockAt l = ⟨true, f, n, e, .free, Vector.replicate 4 none, []⟩ ∧ s.sameBut t [p] [l])) ∧
    (q.outgoing = some (.handed (.undefineLock l)) →
      let idle := (∀ h : PortId, k.holds h = false) ∧ k.queue = []
      (k.defined = false → ends .notDefined) ∧ (k.defined = true → ¬ idle → ends .lockBusy) ∧
      (k.defined = true → idle → ∃ t, exec (.handedRequestArrival p) s = .next t ∧ t.port p = q.complete .none ∧
        t.lockAt l = ⟨false, 0, 0, 0, .free, Vector.replicate 4 none, []⟩ ∧ s.sameBut t [p] [l])) ∧
    (q.outgoing = some (.handed (.breakLock l)) →
      let rest := k.queue.filter fun w => w.want ≠ .upgrade
      let r := Lock.admitFrom (s.leaseDeadline .betweenTicks k.lease) rest
        { k with mode := .free, holders := Vector.replicate 4 none, queue := rest }
      let lost : PortId → Port := fun i => if k.holds i then (s.port i).addLost l else s.port i
      (k.defined = false → ends .notDefined) ∧
      (k.defined = true → ∃ t, exec (.handedRequestArrival p) s = .next t ∧ t.lockAt l = r.1 ∧
        t.port p = (lost p).complete .none ∧
        (∀ i : PortId, i ≠ p → i ∈ r.2 → t.port i = (lost i).complete .none) ∧
        (∀ i : PortId, i ≠ p → i ∉ r.2 → k.upgrades i = true → t.port i = (lost i).complete .holdLost) ∧
        (∀ i : PortId, i ≠ p → i ∉ r.2 → k.upgrades i = false → t.port i = lost i) ∧ s.sameBut t allPorts [l]))) ∧
  (∀ (s : State) (p : PortId),
    let q := s.port p
    (∀ (target : PortId) (give : Bool), target ≠ 0 → q.outgoing = some (.handed (.setRights target give)) →
      ∃ t, exec (.handedRequestArrival p) s = .next t ∧ t.port p = q.complete .none ∧ t.rights.holds target = give ∧
        (∀ i : PortId, i ≠ target → t.rights.holds i = s.rights.holds i) ∧ s.sameBut { t with rights := s.rights } [p] []) ∧
    (∀ fixed : Bool, q.outgoing = some (.handed (.setArbiter fixed)) →
      ∃ t, exec (.handedRequestArrival p) s = .next t ∧ t.port p = q.complete .none ∧
        t.arbiter = { s.arbiter with mode := if fixed then .fixed else .rotate } ∧
        s.sameBut { t with arbiter := s.arbiter } [p] []) ∧
    (∀ n : Byte, q.outgoing = some (.handed (.setScrub n)) →
      let c := s.scrubber
      ∃ t, exec (.handedRequestArrival p) s = .next t ∧ t.port p = q.complete .none ∧
        s.sameBut { t with scrubber := s.scrubber, arbiter := s.arbiter } [p] [] ∧
        (c.phase = .off ∨ c.phase = .timing → t.arbiter = s.arbiter ∧
          t.scrubber = if n = 0 then ⟨0, c.position, .off, none⟩ else ⟨n, c.position, .timing, some ⟨0, n.toNat + 1⟩⟩) ∧
        (c.phase = .requested → n = 0 → t.scrubber = ⟨0, c.position, .off, none⟩ ∧
          t.arbiter = { s.arbiter with scrubReq := none, scrubWait := 0 }) ∧
        (c.phase = .requested → n ≠ 0 → t.scrubber = { c with interval := n } ∧ t.arbiter = s.arbiter) ∧
        (c.phase = .scrubbing → t.scrubber = { c with interval := n } ∧ t.arbiter = s.arbiter)) ∧
    ∀ (target : PortId) (code tag : Byte), q.outgoing = some (.handed (.postNote target code tag)) →
      ((s.port target).notes.length < 8 → ∃ t, exec (.handedRequestArrival p) s = .next t ∧
        (target ≠ p → t.port p = q.complete .none ∧
          t.port target = { s.port target with notes := (s.port target).notes ++ [⟨p, code, tag⟩] }) ∧
        (target = p → t.port p = { q.complete .none with notes := q.notes ++ [⟨p, code, tag⟩] }) ∧
        s.sameBut t [p, target] []) ∧
      (8 ≤ (s.port target).notes.length → ∃ t, exec (.handedRequestArrival p) s = .next t ∧
        t.port p = q.complete .noteFull ∧ s.sameBut t [p] []))

/-! ## Deadlines -/

/-- A tick raises the tick number, a running interval timer counts it, and nothing else changes. A deadline of n units of
10 ms falls 10n ticks on when it is started as part of a tick, and 10n + 1 on when it is started between two ticks; a lease
length of 0 and a wait limit of 255 give none; a deadline is due from its tick on (R63, R64, R65, R70, R148; log 8). -/
def Obligations.TicksAndDeadlines : Prop :=
  (∀ (s : State) (n : Byte),
    (s.leaseDeadline .atTick 0 = none ∧ s.leaseDeadline .betweenTicks 0 = none) ∧
    (n ≠ 0 → s.leaseDeadline .atTick n = some (s.now + 10 * n.toNat) ∧
      s.leaseDeadline .betweenTicks n = some (s.now + 10 * n.toNat + 1)) ∧
    (s.waitDeadline .atTick 255 = none ∧ s.waitDeadline .betweenTicks 255 = none) ∧
    (n ≠ 255 → s.waitDeadline .atTick n = some (s.now + 10 * n.toNat) ∧
      s.waitDeadline .betweenTicks n = some (s.now + 10 * n.toNat + 1)) ∧
    (s.isDue none = false ∧ ∀ d : Tick, s.isDue (some d) = true ↔ d ≤ s.now)) ∧
  (∀ s : State, ∃ t, exec .tick s = .next t ∧ t.now = s.now + 1 ∧
    t.scrubber = { s.scrubber with timer := t.scrubber.timer } ∧
    (s.scrubber.timer = none → t.scrubber.timer = none) ∧
    (∀ m : ScrubTimer, s.scrubber.timer = some m → t.scrubber.timer = some ⟨m.elapsed + 1, m.runsOutAt⟩) ∧
    s.sameBut { t with now := s.now, scrubber := s.scrubber } [] [])

/-! ## Acquiring -/

/-- ACQUIRE SHARED is granted at once on an empty queue and a mode not EXCLUSIVE, ACQUIRE EXCLUSIVE on a FREE lock: the port
is a holder with its lease started, the mode is the one granted, and the command ends NONE (R41, R42, R43, R65).
The model's log entries it rests on: 4, 8. -/
def Obligations.AcquireGrantedAtOnce : Prop :=
  ∀ (s : State) (p : PortId) (l : LockId), s.asks p l → (s.lockAt l).defined = true → (s.lockAt l).holds p = false →
    ((s.lockAt l).queue = [] → (s.lockAt l).mode ≠ .exclusive →
      ∃ t, exec (.acquireShared p .takenAtOnce) s = .next t ∧ t.port p = (s.port p).answered .none ∧
        t.lockAt l = { s.lockAt l with
          mode := .shared
          holders := (s.lockAt l).holders.set p (some ⟨s.leaseDeadline .betweenTicks (s.lockAt l).lease⟩) } ∧
        s.sameBut t [p] [l]) ∧
    ((s.lockAt l).mode = .free →
      ∃ t, exec (.acquireExclusive p .takenAtOnce) s = .next t ∧ t.port p = (s.port p).answered .none ∧
        t.lockAt l = { s.lockAt l with
          mode := .exclusive
          holders := (s.lockAt l).holders.set p (some ⟨s.leaseDeadline .betweenTicks (s.lockAt l).lease⟩) } ∧
        s.sameBut t [p] [l])

/-- A lock command that the table refuses before any deadlock check changes nothing but the port's report, with the kind of
the first check that fails: an ACQUIRE with NOT_DEFINED, ALREADY_HELD, WOULD_WAIT; an UPGRADE with NOT_DEFINED, ALREADY_HELD,
NOT_HELD, UPGRADE_CONFLICT, WOULD_WAIT; DOWNGRADE, RELEASE and RENEW with NOT_DEFINED, NOT_HELD (R21, R41, R46, R50, R51, R66).
The model's log entries it rests on: 4. -/
def Obligations.LockCommandsRefused : Prop :=
  (∀ (s : State) (p : PortId) (l : LockId), s.asks p l →
    let k := s.lockAt l
    ∀ x ∈ [(Instr.acquireShared p .takenAtOnce, decide (k.queue ≠ [] ∨ k.mode = .exclusive)),
        (.acquireExclusive p .takenAtOnce, decide (k.mode ≠ .free))],
      (k.defined = false →
        ∃ t, exec x.1 s = .next t ∧ t.port p = (s.port p).answered .notDefined ∧ s.sameBut t [p] []) ∧
      (k.defined = true → k.holds p = true →
        ∃ t, exec x.1 s = .next t ∧ t.port p = (s.port p).answered .alreadyHeld ∧ s.sameBut t [p] []) ∧
      (k.defined = true → k.holds p = false → x.2 = true → (s.port p).param = 0 →
        ∃ t, exec x.1 s = .next t ∧ t.port p = (s.port p).answered .wouldWait ∧ s.sameBut t [p] [])) ∧
  (∀ (s : State) (p : PortId) (l : LockId), s.asks p l →
    let k := s.lockAt l
    let refuses : ErrorKind → Prop := fun e =>
      ∃ t, exec (.upgrade p .takenAtOnce) s = .next t ∧ t.port p = (s.port p).answered e ∧ s.sameBut t [p] []
    (k.defined = false → refuses .notDefined) ∧
    (k.defined = true → k.holds p = true → k.mode = .exclusive → refuses .alreadyHeld) ∧
    (k.defined = true → k.holds p = false → refuses .notHeld) ∧
    (k.defined = true → k.holds p = true → k.mode ≠ .exclusive → k.holderList ≠ [p] →
      ((∃ w ∈ k.queue, w.want = .upgrade) → refuses .upgradeConflict) ∧
      ((∀ w ∈ k.queue, w.want ≠ .upgrade) → (s.port p).param = 0 → refuses .wouldWait))) ∧
  (∀ (s : State) (p : PortId) (l : LockId), s.asks p l →
    let k := s.lockAt l
    ∀ x ∈ [(Instr.downgrade p .takenAtOnce, decide (k.holds p = true ∧ k.mode = .exclusive)),
        (.release p .takenAtOnce, k.holds p), (.renew p .takenAtOnce, k.holds p)],
      (k.defined = false →
        ∃ t, exec x.1 s = .next t ∧ t.port p = (s.port p).answered .notDefined ∧ s.sameBut t [p] []) ∧
      (k.defined = true → x.2 = false →
        ∃ t, exec x.1 s = .next t ∧ t.port p = (s.port p).answered .notHeld ∧ s.sameBut t [p] []))

/-- A request that cannot be granted at once and may wait is refused with DEADLOCK exactly if its port is reachable, through
waits-for as it stands, from a holder of the lock other than the port; otherwise its entry joins the queue, an ACQUIRE at the
tail and an UPGRADE at the head, with its wait deadline, and the port is in WAITLOCK (R41, R44, R46, R48, R54, R70).
The model's log entries it rests on: 4, 8. -/
def Obligations.WaitsUnlessADeadlockWouldClose : Prop :=
  ∀ (s : State) (p : PortId) (l : LockId), s.asks p l → (s.lockAt l).defined = true → (s.port p).param ≠ 0 →
    let k := s.lockAt l
    let d := s.waitDeadline .betweenTicks (s.port p).param
    let closes := ∃ h : PortId, h ≠ p ∧ k.holds h = true ∧ s.reachable h p
    ∀ x ∈ [(Instr.acquireShared p .takenAtOnce, Command.acquireShared,
          decide (k.holds p = false ∧ (k.queue ≠ [] ∨ k.mode = .exclusive)), k.queue ++ [⟨p, .shared, d⟩]),
        (.acquireExclusive p .takenAtOnce, .acquireExclusive, decide (k.holds p = false ∧ k.mode ≠ .free),
          k.queue ++ [⟨p, .exclusive, d⟩]),
        (.upgrade p .takenAtOnce, .upgrade,
          decide (k.holds p = true ∧ k.mode ≠ .exclusive ∧ k.holderList ≠ [p] ∧ ∀ w ∈ k.queue, w.want ≠ .upgrade),
          ⟨p, .upgrade, d⟩ :: k.queue)],
      x.2.2.1 = true →
      (closes → ∃ t, exec x.1 s = .next t ∧ t.port p = (s.port p).answered .deadlock ∧ s.sameBut t [p] []) ∧
      (¬ closes → ∃ t, exec x.1 s = .next t ∧
        t.port p = { s.port p with
          state := .waitLock, done := false, kind := .none, corr := false, rej := false,
          running := some ⟨x.2.1, .ascending⟩, outgoing := none } ∧
        t.lockAt l = { k with queue := x.2.2.2 } ∧ s.sameBut t [p] [l])

/-! ## Changing and giving up a hold -/

/-- UPGRADE by the only holder, holding SHARED, is granted at once: the mode is EXCLUSIVE with the port still the sole
holder, its lease deadline starts anew if the lease length is not 0, and the command ends NONE (R46, R47).
The model's log entries it rests on: 4, 8. -/
def Obligations.UpgradeGrantedAtOnce : Prop :=
  ∀ (s : State) (p : PortId) (l : LockId), s.asks p l → (s.lockAt l).defined = true → (s.lockAt l).mode = .shared →
    (∀ h : PortId, (s.lockAt l).holds h = true ↔ h = p) →
    ∃ t, exec (.upgrade p .takenAtOnce) s = .next t ∧ t.port p = (s.port p).answered .none ∧
      (t.lockAt l).mode = .exclusive ∧ (∀ h : PortId, (t.lockAt l).holds h = true ↔ h = p) ∧
      (t.lockAt l).holders[p] = some ⟨s.leaseDeadline .betweenTicks (s.lockAt l).lease⟩ ∧
      t.lockAt l = { s.lockAt l with mode := .exclusive, holders := (t.lockAt l).holders } ∧ s.sameBut t [p] [l]

/-- DOWNGRADE of an EXCLUSIVE hold makes the mode SHARED and keeps the hold and its lease deadline, RELEASE ends the port's
hold of either mode and leaves the lock FREE if it was the last; then the queue is re-examined at the same event and the ports
granted end NONE. RENEW starts the lease of a hold anew, or changes nothing on a lock without leases. The issuing port's command
ends NONE (R38, R50, R51, R66).
The model's log entries it rests on: 4, 8. -/
def Obligations.HoldsKeptAndGivenUp : Prop :=
  (∀ (s : State) (p : PortId) (l : LockId), s.asks p l → (s.lockAt l).defined = true → (s.lockAt l).holds p = true →
    let k := s.lockAt l
    let released := { k with
      holders := k.holders.set p none
      mode := if ∀ h : PortId, h ≠ p → k.holds h = false then LockMode.free else k.mode }
    ∀ x ∈ [(Instr.release p .takenAtOnce, true, released),
        (.downgrade p .takenAtOnce, decide (k.mode = .exclusive), { k with mode := .shared })],
      x.2.1 = true →
      let r := Lock.admitFrom (s.leaseDeadline .betweenTicks k.lease) k.queue x.2.2
      ∃ t, exec x.1 s = .next t ∧ t.lockAt l = r.1 ∧ t.port p = (s.port p).answered .none ∧
        (∀ q ∈ r.2, q ≠ p → t.port q = (s.port q).complete .none) ∧ s.sameBut t (p :: r.2) [l]) ∧
  (∀ (s : State) (p : PortId) (l : LockId), s.asks p l → (s.lockAt l).defined = true → (s.lockAt l).holds p = true →
    ((s.lockAt l).lease ≠ 0 → ∃ t, exec (.renew p .takenAtOnce) s = .next t ∧ t.port p = (s.port p).answered .none ∧
      t.lockAt l = { s.lockAt l with
        holders := (s.lockAt l).holders.set p (some ⟨some (s.now + 10 * (s.lockAt l).lease.toNat + 1)⟩) } ∧
      s.sameBut t [p] [l]) ∧
    ((s.lockAt l).lease = 0 → ∃ t, exec (.renew p .takenAtOnce) s = .next t ∧ t.port p = (s.port p).answered .none ∧
      s.sameBut t [p] []))

/-- QUERY LOCK on a defined lock places the lock record in staging and opens a data phase, and changes no lock (R31, R32,
R168).
The model's log entries it rests on: 4. -/
def Obligations.QueryLockRecord : Prop :=
  ∀ (s : State) (p : PortId) (l : LockId), s.asks p l → (s.port p).held = none →
    let k := s.lockAt l
    let left : Option Tick → Byte := fun d =>
      match d with
      | none => 0xFF
      | some t => BitVec.ofNat 8 (min 254 ((t - s.now) / 10))
    (k.defined = false → ∃ t, exec (.queryLock p .takenAtOnce) s = .next t ∧
      t.port p = (s.port p).answered .notDefined ∧ s.sameBut t [p] []) ∧
    (k.defined = true → k.queue.length ≤ 4 → k.sound →
      ∃ t, exec (.queryLock p .takenAtOnce) s = .next t ∧ s.sameBut t [p] [] ∧
        t.port p = { s.port p with
          state := .dataIn, index := 0, done := false, kind := .none, corr := false, rej := false,
          running := some ⟨.queryLock, .ascending⟩, outgoing := none, staging := (t.port p).staging } ∧
        (t.port p).staging[0] = BitVec.ofNat 8 l.val ∧ (t.port p).staging[1] = 1 ∧
        (t.port p).staging[2] = (match k.mode with | .free => 0 | .shared => 1 | .exclusive => 2) ∧
        (t.port p).staging[3] = BitVec.ofNat 8 k.first.toNat ∧
        (t.port p).staging[4] = BitVec.ofNat 8 (k.first.toNat / 256) ∧
        (t.port p).staging[5] = k.count ∧ (t.port p).staging[6] = k.lease ∧
        (∀ i : Fin 8, (t.port p).staging[7].getLsbD i.val = decide (∃ q : PortId, q.val = i.val ∧ k.holds q = true)) ∧
        (∀ q : PortId, (t.port p).staging[8 + q.val]'(by omega) =
          match k.holders[q] with
          | none => 0xFF
          | some h => left h.lease) ∧
        (t.port p).staging[12] = BitVec.ofNat 8 k.queue.length ∧
        (∀ (i : Fin 4) (w : Waiter), k.queue[i.val]? = some w →
          (t.port p).staging[13 + 3 * i.val]'(by omega) = BitVec.ofNat 8 w.port.val ∧
          (t.port p).staging[14 + 3 * i.val]'(by omega) =
            (match w.want with | .shared => 1 | .exclusive => 2 | .upgrade => 3) ∧
          (t.port p).staging[15 + 3 * i.val]'(by omega) = left w.deadline) ∧
        ∀ j : Fin 128, 13 + 3 * k.queue.length ≤ j.val → (t.port p).staging[j] = 0)

/-! ## Setting up locks -/

/-- DEFINE LOCK of a port with the right, with arguments in range: DEFINED on a lock in force, OVERLAP if a block of the run
is covered by another defined lock, otherwise the record holds the range and the lease length and is FREE with an empty queue.
UNDEFINE LOCK: NOT_DEFINED on an undefined lock, LOCK_BUSY while it has a holder or a waiter, otherwise the record returns to
its undefined values (R24, R25, R27).
The model's log entries it rests on: 4. -/
def Obligations.DefineAndUndefineLock : Prop :=
  (∀ (s : State) (p : PortId) (l : LockId), s.asks p l → s.rights.holds p = true →
    let q := s.port p
    let shares := ∃ (i : LockId) (b : BlockNo), i ≠ l ∧ (s.lockAt i).covers b = true ∧ q.block.toNat ≤ b.toNat ∧
      b.toNat < q.block.toNat + q.count.toNat
    q.count ≠ 0 → q.block.toNat + q.count.toNat ≤ 512 →
    ((s.lockAt l).defined = true → ∃ t, exec (.defineLock p .takenAtOnce) s = .next t ∧
      t.port p = q.answered .defined ∧ s.sameBut t [p] []) ∧
    ((s.lockAt l).defined = false → shares → ∃ t, exec (.defineLock p .takenAtOnce) s = .next t ∧
      t.port p = q.answered .overlap ∧ s.sameBut t [p] []) ∧
    ((s.lockAt l).defined = false → ¬ shares → ∃ t, exec (.defineLock p .takenAtOnce) s = .next t ∧
      t.port p = q.answered .none ∧
      t.lockAt l = ⟨true, q.block, q.count, q.dest.setWidth 8, .free, Vector.replicate 4 none, []⟩ ∧ s.sameBut t [p] [l])) ∧
  (∀ (s : State) (p : PortId) (l : LockId), s.asks p l → s.rights.holds p = true →
    let k := s.lockAt l
    let idle := (∀ h : PortId, k.holds h = false) ∧ k.queue = []
    (k.defined = false → ∃ t, exec (.undefineLock p .takenAtOnce) s = .next t ∧
      t.port p = (s.port p).answered .notDefined ∧ s.sameBut t [p] []) ∧
    (k.defined = true → ¬ idle → ∃ t, exec (.undefineLock p .takenAtOnce) s = .next t ∧
      t.port p = (s.port p).answered .lockBusy ∧ s.sameBut t [p] []) ∧
    (k.defined = true → idle → ∃ t, exec (.undefineLock p .takenAtOnce) s = .next t ∧
      t.port p = (s.port p).answered .none ∧
      t.lockAt l = ⟨false, 0, 0, 0, .free, Vector.replicate 4 none, []⟩ ∧ s.sameBut t [p] [l]))

/-- BREAK LOCK of a port with the right takes every hold and enters the lock in each former holder's lost set, ends an
UPGRADE wait HOLD_LOST, re-examines the queue of the rest, and ends NONE; NOT_DEFINED on an undefined lock (R29, R38, R76).
The model's log entries it rests on: 4, 8. -/
def Obligations.BreakLock : Prop :=
  ∀ (s : State) (p : PortId) (l : LockId), s.asks p l → s.rights.holds p = true →
    let k := s.lockAt l
    let rest := k.queue.filter fun w => w.want ≠ .upgrade
    let r := Lock.admitFrom (s.leaseDeadline .betweenTicks k.lease) rest
      { k with mode := .free, holders := Vector.replicate 4 none, queue := rest }
    let lost : PortId → Port := fun q => if k.holds q then (s.port q).addLost l else s.port q
    (k.defined = false → ∃ t, exec (.breakLock p .takenAtOnce) s = .next t ∧
      t.port p = (s.port p).answered .notDefined ∧ s.sameBut t [p] []) ∧
    (k.defined = true → ∃ t, exec (.breakLock p .takenAtOnce) s = .next t ∧ t.lockAt l = r.1 ∧
      t.port p = (lost p).answered .none ∧
      (∀ q : PortId, q ≠ p → q ∈ r.2 → t.port q = (lost q).complete .none) ∧
      (∀ q : PortId, q ≠ p → q ∉ r.2 → k.upgrades q = true → t.port q = (lost q).complete .holdLost) ∧
      (∀ q : PortId, q ≠ p → q ∉ r.2 → k.upgrades q = false → t.port q = lost q) ∧ s.sameBut t allPorts [l])

/-! ## Setup and notes -/

/-- SET RIGHTS of port 0 gives or takes the right of the port named, and SET ARBITER sets the mode and keeps the rotation
pointer, the count and the requests; both end NONE (R90, R154, R155).
The model's log entries it rests on: 4. -/
def Obligations.SetRightsAndSetArbiter : Prop :=
  ∀ (s : State) (p : PortId), (s.port p).state = .ready → (s.port p).param.toNat ≤ 1 →
    (p = 0 → ∀ target : PortId, target ≠ 0 → (s.port p).lock.toNat = target.val →
      ∃ t, exec (.setRights p .takenAtOnce) s = .next t ∧ t.port p = (s.port p).answered .none ∧
        t.rights.holds target = decide ((s.port p).param = 1) ∧
        (∀ q : PortId, q ≠ target → t.rights.holds q = s.rights.holds q) ∧ s.sameBut { t with rights := s.rights } [p] []) ∧
    (s.rights.holds p = true →
      ∃ t, exec (.setArbiter p .takenAtOnce) s = .next t ∧ t.port p = (s.port p).answered .none ∧
        t.arbiter = { s.arbiter with mode := if (s.port p).param = 1 then .fixed else .rotate } ∧
        s.sameBut { t with arbiter := s.arbiter } [p] [])

/-- SET SCRUB of a port with the right stores the interval and acts by the scrubber's phase: in OFF and TIMING the timer
starts afresh, or the scrubber is OFF for an interval of 0; in REQUESTED an interval of 0 withdraws the request and turns the
scrubber OFF, another one leaves the request; in SCRUBBING the transfer goes on (R84, R148, R151).
The model's log entries it rests on: 4, 8, 17, 23. -/
def Obligations.SetScrubByPhase : Prop :=
  ∀ (s : State) (p : PortId), (s.port p).state = .ready → s.rights.holds p = true →
    let n := (s.port p).param
    let c := s.scrubber
    ∃ t, exec (.setScrub p .takenAtOnce) s = .next t ∧ t.port p = (s.port p).answered .none ∧
      s.sameBut { t with scrubber := s.scrubber, arbiter := s.arbiter } [p] [] ∧
      (c.phase = .off ∨ c.phase = .timing → t.arbiter = s.arbiter ∧
        t.scrubber = if n = 0 then ⟨0, c.position, .off, none⟩ else ⟨n, c.position, .timing, some ⟨0, n.toNat + 1⟩⟩) ∧
      (c.phase = .requested → n = 0 → t.scrubber = ⟨0, c.position, .off, none⟩ ∧
        t.arbiter = { s.arbiter with scrubReq := none, scrubWait := 0 }) ∧
      (c.phase = .requested → n ≠ 0 → t.scrubber = { c with interval := n } ∧ t.arbiter = s.arbiter) ∧
      (c.phase = .scrubbing → t.scrubber = { c with interval := n } ∧ t.arbiter = s.arbiter)

/-- POST NOTE appends sender, code and tag to the target's queue, the sender's own included, and ends NONE while the queue
holds fewer than 8 notes; otherwise it ends NOTE_FULL and appends nothing (R137, R139, R140).
The model's log entries it rests on: 4. -/
def Obligations.PostNote : Prop :=
  ∀ (s : State) (p target : PortId), (s.port p).state = .ready → (s.port p).lock.toNat = target.val →
    let note : Note := ⟨p, (s.port p).param, (s.port p).dest.setWidth 8⟩
    ((s.port target).notes.length < 8 →
      ∃ t, exec (.postNote p .takenAtOnce) s = .next t ∧
        (target ≠ p → t.port p = (s.port p).answered .none ∧
          t.port target = { s.port target with notes := (s.port target).notes ++ [note] }) ∧
        (target = p → t.port p = { (s.port p).answered .none with notes := (s.port p).notes ++ [note] }) ∧
        s.sameBut t [p, target] []) ∧
    (8 ≤ (s.port target).notes.length →
      ∃ t, exec (.postNote p .takenAtOnce) s = .next t ∧ t.port p = (s.port p).answered .noteFull ∧ s.sameBut t [p] [])

/-- A write of NOTE_POP, with any value and in every port state, removes the head note; the head registers show the new head
or FFh, 00h, 00h, STATUS.NOTE is clear exactly if no note is left, and on an empty queue nothing changes (R138, R142).
The model's log entries it rests on: 25. -/
def Obligations.NotePop : Prop :=
  ∀ (s : State) (p : PortId) (v : Byte), ∃ t, exec (.notePop p v) s = .next t ∧
    t.port p = { s.port p with notes := (s.port p).notes.drop 1 } ∧ s.sameBut t [p] [] ∧
    (∀ (n m : Note) (rest : List Note), (s.port p).notes = n :: m :: rest →
      t.readWindow p 0xC = BitVec.ofNat 8 m.sender.val ∧ t.readWindow p 0xD = m.code ∧ t.readWindow p 0xE = m.tag ∧
        (t.status p).getLsbD 2 = true) ∧
    ((s.port p).notes.length ≤ 1 →
      t.readWindow p 0xC = 0xFF ∧ t.readWindow p 0xD = 0x00 ∧ t.readWindow p 0xE = 0x00 ∧ (t.status p).getLsbD 2 = false) ∧
    ((s.port p).notes = [] → t = s)

/-! ## The window -/

/-- Each STATUS bit is set exactly while its source is, ALTSTATUS reads the same byte, and PnIRQ# is asserted exactly while
a STATUS bit is set whose IRQEN bit is set; a read of STATUS returns the byte and clears DONE, and nothing else. ERROR reads
CORR in bit 7, REJ in bit 6, 0 in bit 5 and the code of the kind in bits 4 to 0, and the twenty kinds have the codes 00h to 13h
(R99, R100, R114, R164, R165).
The model's log entries it rests on: 1, 21. -/
def Obligations.StatusByteAndItsRead : Prop :=
  (∀ (s : State) (p : PortId),
    let q := s.port p
    ((s.status p).getLsbD 7 = true ↔ q.state = .exec ∨ q.state = .waitLock ∨ q.state = .aborting) ∧
    ((s.status p).getLsbD 6 = true ↔ q.state = .dataIn ∨ q.state = .dataOut) ∧
    ((s.status p).getLsbD 5 = true ↔ q.state = .waitLock) ∧ ((s.status p).getLsbD 4 = true ↔ q.done = true) ∧
    ((s.status p).getLsbD 3 = true ↔ q.kind ≠ .none) ∧ ((s.status p).getLsbD 2 = true ↔ q.notes ≠ []) ∧
    ((s.status p).getLsbD 1 = true ↔ ∃ l : LockId, q.lost[l] = true) ∧
    ((s.status p).getLsbD 0 = true ↔ s.pool.faults ≠ [] ∧ s.rights.holds p = true) ∧
    (s.readWindow p 0x8 = s.status p ∧ s.readWindow p 0xA = s.status p) ∧
    (s.irq p = true ↔ ∃ i < 8, (s.status p).getLsbD i = true ∧ q.irqen.getLsbD i = true)) ∧
  (∀ (s : State) (p : PortId), ∃ t, exec (.statusRead p) s = .next t ∧
    t.port p = { s.port p with dataBus := s.readWindow p 0x8, done := false } ∧ s.sameBut t [p] [] ∧
    ∀ i < 8, i ≠ 4 → (t.status p).getLsbD i = (s.status p).getLsbD i) ∧
  (∀ (s : State) (p : PortId),
    let e := s.readWindow p 0x9
    e.getLsbD 7 = (s.port p).corr ∧ e.getLsbD 6 = (s.port p).rej ∧ e.getLsbD 5 = false ∧
      ∀ i < 5, e.getLsbD i = (s.port p).kind.code.getLsbD i) ∧
  ([ErrorKind.none, .badCommand, .badParam, .noRight, .notDefined, .defined, .overlap, .lockBusy, .alreadyHeld, .notHeld].map
      ErrorKind.code = [0x00, 0x01, 0x02, 0x03, 0x04, 0x05, 0x06, 0x07, 0x08, 0x09] ∧
    [ErrorKind.wouldWait, .waitTimeout, .deadlock, .upgradeConflict, .holdLost, .access, .blank, .uncorrectable, .noteFull,
      .aborted].map ErrorKind.code = [0x0A, 0x0B, 0x0C, 0x0D, 0x0E, 0x0F, 0x10, 0x11, 0x12, 0x13])

/-- A read of DATA in DATA_IN returns the staging byte at the index and moves the index; the read of byte 127 ends the phase:
for READ BLOCKS the block is completed, COUNT falls by one, and the next load is requested for the next block or the command
ends NONE; for a record the command ends NONE. A write of DATA there is ignored (R101, R103, R116, R121). That the data bus keeps
the byte (log 1) and that the next load request is on its way from that read (log 5) is the model's.
The model's log entries it rests on: 1, 5. -/
def Obligations.DataReadInDataIn : Prop :=
  ∀ (s : State) (p : PortId),
    let q := s.port p
    q.state = .dataIn →
    (∀ v : Byte, exec (.dataWrite p v) s = .next s) ∧
    (∀ h : q.index < 127, ∃ t, exec (.dataRead p) s = .next t ∧
      t.port p = { q with dataBus := q.staging[q.index], index := q.index + 1 } ∧ s.sameBut t [p] []) ∧
    (q.index = 127 →
      (∀ d : Direction, q.running = some ⟨.readBlocks, d⟩ → 2 ≤ q.count.toNat →
        ∃ t, exec (.dataRead p) s = .next t ∧
          t.port p = { q with
            state := .exec, dataBus := q.staging[127], index := 128, count := q.count - 1, block := q.block + 1,
            outgoing := some (.pool ⟨.load, q.block + 1, none⟩) } ∧ s.sameBut t [p] []) ∧
      (∀ d : Direction, q.running = some ⟨.readBlocks, d⟩ → q.count = 1 →
        ∃ t, exec (.dataRead p) s = .next t ∧
          t.port p = { q with
            state := .ready, dataBus := q.staging[127], index := 128, count := 0, done := true, kind := .none,
            running := none, outgoing := none, held := none } ∧ s.sameBut t [p] []) ∧
      ((∀ d : Direction, q.running ≠ some ⟨.readBlocks, d⟩) →
        ∃ t, exec (.dataRead p) s = .next t ∧
          t.port p = { q with
            state := .ready, dataBus := q.staging[127], index := 128, done := true, kind := .none,
            running := none, outgoing := none, held := none } ∧ s.sameBut t [p] []))

/-- A write of DATA in DATA_OUT stores the byte at the index and moves the index; the write of byte 127 ends the phase with
the port in EXEC and the store of the block BLOCK names requested. A read of DATA there returns 00h and moves nothing (R104,
R123). That the data bus keeps the 00h (log 1) and that the request is on its way from that write (log 5) is the model's.
The model's log entries it rests on: 1, 5. -/
def Obligations.DataWriteInDataOut : Prop :=
  ∀ (s : State) (p : PortId) (v : Byte),
    let q := s.port p
    q.state = .dataOut →
    (∀ h : q.index < 127, ∃ t, exec (.dataWrite p v) s = .next t ∧
      t.port p = { q with staging := q.staging.set q.index v, index := q.index + 1 } ∧ s.sameBut t [p] []) ∧
    (∀ d : Direction, q.index = 127 → q.running = some ⟨.writeBlocks, d⟩ →
      ∃ t, exec (.dataWrite p v) s = .next t ∧
        t.port p = { q with
          state := .exec, staging := q.staging.set 127 v, index := 128, outgoing := some (.pool ⟨.store, q.block, none⟩) } ∧
        s.sameBut t [p] []) ∧
    ∃ t, exec (.dataRead p) s = .next t ∧ t.port p = { q with dataBus := 0x00 } ∧ s.sameBut t [p] []

/-- Outside DATA_IN and DATA_OUT a read of DATA returns 00h and a write of DATA is ignored: neither moves the index, touches
staging or sets REJ (R105). That the data bus keeps the 00h is the model's choice.
The model's log entries it rests on: 1. -/
def Obligations.DataOutsideAPhase : Prop :=
  ∀ (s : State) (p : PortId) (v : Byte), (s.port p).state ≠ .dataIn → (s.port p).state ≠ .dataOut →
    (∃ t, exec (.dataRead p) s = .next t ∧ t.port p = { s.port p with dataBus := 0x00 } ∧ s.sameBut t [p] []) ∧
    exec (.dataWrite p v) s = .next s

/-- A write of LOST with a lock id removes that id from the port's lost set and any other value does nothing; LOST reads the
lowest id of the set, or FFh when it is empty (R77).
The model's log entries it rests on: 25. -/
def Obligations.LostRegister : Prop :=
  ∀ (s : State) (p : PortId) (v : Byte),
    (∃ t, exec (.lostWrite p v) s = .next t ∧ s.sameBut t [p] [] ∧
      t.port p = { s.port p with lost := (t.port p).lost } ∧
      ∀ l : LockId, (t.port p).lost[l] = (if v.toNat = l.val then false else (s.port p).lost[l])) ∧
    (∀ l : LockId, (s.port p).lost[l] = true → (∀ m : LockId, m.val < l.val → (s.port p).lost[m] = false) →
      s.readWindow p 0xF = BitVec.ofNat 8 l.val) ∧
    ((∀ l : LockId, (s.port p).lost[l] = false) → s.readWindow p 0xF = 0xFF)

/-- A write of an argument register is stored in READY, of a high register only bit 0, and reads back; the other registers
keep their values. Outside READY, and at the offsets that ignore writes, nothing changes, and REJ is not set; nor does anything
at a write of CONTROL with neither ABORT nor PRESET set (R106). A write of IRQEN stores bits 6, 4, 2, 1 and 0 as written and 0 in
the others, in every port state (R98, R114, R163).
The model's log entries it rests on: 25. -/
def Obligations.RegisterWrites : Prop :=
  (∀ (s : State) (p : PortId) (o : Fin 16) (v : Byte),
    (1 ≤ o.val → o.val ≤ 7 → (s.port p).state = .ready →
      ∃ t, exec (.registerWrite p o v) s = .next t ∧ s.sameBut t [p] [] ∧
        t.readWindow p o = (if o.val = 4 ∨ o.val = 6 then v &&& 0x01 else v) ∧
        (∀ r : Fin 16, r ≠ o → t.readWindow p r = s.readWindow p r) ∧
        t.port p = { s.port p with
          param := (t.port p).param, count := (t.port p).count, block := (t.port p).block, dest := (t.port p).dest,
          lock := (t.port p).lock }) ∧
    (1 ≤ o.val → o.val ≤ 7 → (s.port p).state ≠ .ready → exec (.registerWrite p o v) s = .next s) ∧
    (o.val = 0xA ∨ o.val = 0xD ∨ o.val = 0xE → exec (.registerWrite p o v) s = .next s) ∧
    (o.val = 0x9 → v.getLsbD 0 = false → v.getLsbD 1 = false → exec (.registerWrite p o v) s = .next s)) ∧
  (∀ (s : State) (p : PortId) (v : Byte), ∃ t, exec (.irqenWrite p v) s = .next t ∧ s.sameBut t [p] [] ∧
    t.port p = { s.port p with irqen := t.readWindow p 0xB } ∧
    ∀ i < 8, (t.readWindow p 0xB).getLsbD i = (v.getLsbD i && !([7, 5, 3].contains i)))

/-! ## Abort and port reset -/

/-- An abort, by the port's state: no effect in READY and ABORTING; in a data phase the command ends ABORTED with staging
discarded; in EXEC with the port's transfer in flight the port enters ABORTING; in EXEC with a request outstanding, unless a
port reset is held, and in WAITLOCK, the abort is held and its withdrawal goes out (R106 to R110).
The model's log entries it rests on: 15. -/
def Obligations.AbortByState : Prop :=
  ∀ (s : State) (p : PortId) (v : Byte), v.getLsbD 0 = true → v.getLsbD 1 = false →
    let q := s.port p
    (q.state = .ready ∨ q.state = .aborting → exec (.abort p v) s = .next s) ∧
    (q.state = .dataIn ∨ q.state = .dataOut → ∃ t, exec (.abort p v) s = .next t ∧
      t.port p = { q with
        state := .ready, index := 0, kind := .aborted, done := true, running := none, outgoing := none, held := none } ∧
      s.sameBut t [p] []) ∧
    (q.state = .exec → s.inFlight p = true → ∃ t, exec (.abort p v) s = .next t ∧
      t.port p = { q with state := .aborting, held := some .abort } ∧ s.sameBut t [p] []) ∧
    (q.state = .exec → s.inFlight p = false → q.held = some .portReset → exec (.abort p v) s = .next s) ∧
    (q.state = .waitLock ∨ q.state = .exec ∧ s.inFlight p = false ∧ q.held ≠ some .portReset →
      ∃ t, exec (.abort p v) s = .next t ∧ t.port p = { q with held := some .abort } ∧ s.sameBut t [p] [])

/-- A write of CONTROL with PRESET set, ABORT set or not: where nothing of the port is at the pool the reset takes effect at
once, at the port unit and at the lock table; with a transfer in flight it is held in ABORTING, with a pool request it is held
in EXEC until that request is withdrawn or granted. The lock table's own event of a port reset is that effect (R34, R111, R112,
R113; log 7).
The model's log entries it rests on: 5, 7, 8, 15, 26. -/
def Obligations.PortReset : Prop :=
  (∀ (s : State) (p : PortId) (v : Byte), v.getLsbD 1 = true →
    let q := s.port p
    (q.state ≠ .aborting → (q.state = .exec → s.inFlight p = false ∧ s.poolRequested p = false) →
      ∃ t, exec (.portReset p v) s = .next t ∧ s.resetOf t p ∧ s.sameBut t allPorts allLocks) ∧
    (q.state = .exec → s.inFlight p = true → ∃ t, exec (.portReset p v) s = .next t ∧
      t.port p = { q with state := .aborting, held := some .portReset } ∧ s.sameBut t [p] []) ∧
    (q.state = .exec → s.inFlight p = false → s.poolRequested p = true → ∃ t, exec (.portReset p v) s = .next t ∧
      t.port p = { q with held := some .portReset } ∧ s.sameBut t [p] []) ∧
    (q.state = .aborting → ∃ t, exec (.portReset p v) s = .next t ∧
      t.port p = { q with held := some .portReset } ∧ s.sameBut t [p] [])) ∧
  (∀ (s : State) (p : PortId),
    (s.inFlight p = false → s.poolRequested p = false →
      ∃ t, exec (.tablePortReset p) s = .next t ∧ s.resetOf t p ∧ s.sameBut t allPorts allLocks) ∧
    (s.inFlight p = true ∨ s.poolRequested p = true → exec (.tablePortReset p) s = .next s))

/-- The withdrawal of an aborting port's handed request, taken before the request, drops it; the withdrawal of a waiting
port's entry removes the entry and re-examines the queue of the rest at the same event. Either ends the command ABORTED. A port
with no abort held, with a request of any kind on its way or none, is left as it is, and so is one with no handed request on its
way that does not wait, because its entry was granted first (R56, R57, R58, R109).
The model's log entries it rests on: 3, 8, 15. -/
def Obligations.AbortWithdrawals : Prop :=
  (∀ (s : State) (p : PortId) (r : HandedRequest), (s.port p).outgoing = some (.handed r) → (s.port p).held = some .abort →
    ∃ t, exec (.handedRequestWithdrawal p) s = .next t ∧ t.port p = (s.port p).complete .aborted ∧ s.sameBut t [p] []) ∧
  (∀ (s : State) (p : PortId) (l : LockId), ∀ x ∈ [Instr.lockEntryWithdrawal p, .handedRequestWithdrawal p],
    (x = .lockEntryWithdrawal p ∨ ∀ r : HandedRequest, (s.port p).outgoing ≠ some (.handed r)) →
    let k := s.lockAt l
    let rest := k.queue.filter fun w => w.port ≠ p
    let r := Lock.admitFrom (s.leaseDeadline .betweenTicks k.lease) rest { k with queue := rest }
    ((s.port p).state = .waitLock → (s.port p).held = some .abort → k.waits p = true →
      (∀ m : LockId, m ≠ l → (s.lockAt m).waits p = false) →
      ∃ t, exec x s = .next t ∧ t.lockAt l = r.1 ∧ t.port p = (s.port p).complete .aborted ∧
        (∀ q ∈ r.2, t.port q = (s.port q).complete .none) ∧ s.sameBut t (p :: r.2) [l]) ∧
    ((s.port p).state ≠ .waitLock ∨ (∀ m : LockId, (s.lockAt m).waits p = false) → exec x s = .next s)) ∧
  (∀ (s : State) (p : PortId), (s.port p).held ≠ some .abort →
    exec (.lockEntryWithdrawal p) s = .next s ∧ exec (.handedRequestWithdrawal p) s = .next s)

/-! ## Time -/

/-- The expiry of a due lease takes the hold, enters the lock in the former holder's lost set, and re-examines the queue at
the same event, as part of the tick; an UPGRADE wait of that port ends HOLD_LOST first. A deadline that is absent or not due
has no effect (R64, R67, R68, R76).
The model's log entries it rests on: 3, 8. -/
def Obligations.LeaseExpiry : Prop :=
  ∀ (s : State) (l : LockId) (p : PortId),
    let k := s.lockAt l
    let rest := if k.upgrades p then k.queue.filter fun w => w.port ≠ p else k.queue
    let r := Lock.admitFrom (s.leaseDeadline .atTick k.lease) rest
      { k with
        holders := k.holders.set p none
        mode := if ∀ h : PortId, h ≠ p → k.holds h = false then LockMode.free else k.mode
        queue := rest }
    (∀ h : Hold, k.holders[p] = some h → s.isDue h.lease = true →
      ∃ t, exec (.leaseExpiry l p) s = .next t ∧ t.lockAt l = r.1 ∧
        (∀ m : LockId, (t.port p).lost[m] = ((s.port p).lost[m] || m == l)) ∧
        (k.upgrades p = true → t.port p = { (s.port p).complete .holdLost with lost := (t.port p).lost }) ∧
        (k.upgrades p = false → p ∉ r.2 → t.port p = { s.port p with lost := (t.port p).lost }) ∧
        (∀ q ∈ r.2, q ≠ p → t.port q = (s.port q).complete .none) ∧ s.sameBut t (p :: r.2) [l]) ∧
    (k.holders[p] = none → exec (.leaseExpiry l p) s = .next s) ∧
    (∀ h : Hold, k.holders[p] = some h → s.isDue h.lease = false → exec (.leaseExpiry l p) s = .next s)

/-- The timeout of a due wait removes the entry, ends the waiter's command WAIT_TIMEOUT, and re-examines the queue at the same
event; without an entry, or before its deadline, it has no effect (R64, R71).
The model's log entries it rests on: 3, 8. -/
def Obligations.WaitTimeout : Prop :=
  ∀ (s : State) (l : LockId) (p : PortId),
    let k := s.lockAt l
    let rest := k.queue.filter fun w => w.port ≠ p
    let r := Lock.admitFrom (s.leaseDeadline .atTick k.lease) rest { k with queue := rest }
    (k.waits p = false → exec (.waitTimeout l p) s = .next s) ∧
    (∀ w ∈ k.queue, w.port = p → (k.queue.map Waiter.port).Nodup →
      (s.isDue w.deadline = false → exec (.waitTimeout l p) s = .next s) ∧
      (s.isDue w.deadline = true →
        ∃ t, exec (.waitTimeout l p) s = .next t ∧ t.lockAt l = r.1 ∧ t.port p = (s.port p).complete .waitTimeout ∧
          (∀ q ∈ r.2, t.port q = (s.port q).complete .none) ∧ s.sameBut t (p :: r.2) [l]))

/-- When the interval timer has run out, the scrubber requests the pool with the block at its position: the request waits
while a transfer is in flight; with the pool free and no other request it is granted at the same event, and the scrub of a GOOD
block begins while another block is skipped (R81, R148, R149). A request that had to wait is granted when the choice falls on it
at the end of a port's transfer, by the block's state as that transfer left it (R83, R149). At a skip the position moves on and
the timer starts for the next step, or the scrubber is OFF if the interval is 0, and so at the end of a scrub, which is followed
at the same event by the next grant (R81, R87, R147, R150). Before the timer has run out there is no request (the model's
choice, log 3).
The model's log entries it rests on: 3, 6, 8, 19, 23. -/
def Obligations.ScrubberStep : Prop :=
  (∀ s : State,
    let b := s.scrubber.position
    (¬ (s.scrubber.phase = .timing ∧ ∃ m, s.scrubber.timer = some m ∧ m.runsOutAt ≤ m.elapsed) →
      exec .scrubRequest s = .next s) ∧
    (∀ m : ScrubTimer, s.scrubber.phase = .timing → s.scrubber.timer = some m → m.runsOutAt ≤ m.elapsed →
      ∃ t, exec .scrubRequest s = .next t ∧
        (s.pool.transfer ≠ none → t = { s with
          scrubber := { s.scrubber with phase := .requested, timer := none }
          arbiter := { s.arbiter with scrubReq := some b } }) ∧
        (s.pool.transfer = none → (∀ q : PortId, s.arbiter.waiting[q] = none) → s.pool.stateOf b = .good →
          t = { s with
            scrubber := { s.scrubber with phase := .scrubbing, timer := none }
            arbiter := { s.arbiter with scrubReq := none, scrubWait := 0 }
            pool := { s.pool with
              transfer := some ⟨.scrubber, .scrub, b, none, some (s.pool.readBlock b).1, (s.pool.readBlock b).2⟩ } }) ∧
        (s.pool.transfer = none → (∀ q : PortId, s.arbiter.waiting[q] = none) → s.pool.stateOf b ≠ .good →
          s.scrubber.interval ≠ 0 → t = { s with
            scrubber := ⟨s.scrubber.interval, b + 1, .timing, some ⟨0, s.scrubber.interval.toNat⟩⟩
            arbiter := { s.arbiter with scrubReq := none, scrubWait := 0 } }))) ∧
  (∀ (s : State) (x : Transfer) (p : PortId) (b : BlockNo),
    let c := s.scrubber
    s.pool.transfer = some x → x.requester = .port p → s.arbiter.choose = some .scrubber → s.arbiter.scrubReq = some b →
    ∀ i ∈ [(Instr.loadEnd, TransferKind.load), (.storeEnd, .store), (.zeroEnd, .zero), (.copyEnd, .copy),
        (.verifyEnd, .verify)], x.kind = i.2 →
      ∃ t, exec i.1 s = .next t ∧ t.arbiter.scrubReq = none ∧
        (t.pool.stateOf b = .good → t.scrubber = { c with phase := .scrubbing } ∧
          t.arbiter = { s.arbiter with scrubReq := none, scrubWait := 0 } ∧
          t.pool.transfer =
            some ⟨.scrubber, .scrub, b, none, some (t.pool.readBlock b).1, (t.pool.readBlock b).2⟩) ∧
        (t.pool.stateOf b ≠ .good → t.scrubber = (if c.interval = 0 then ⟨0, c.position + 1, .off, none⟩
          else ⟨c.interval, c.position + 1, .timing, some ⟨0, c.interval.toNat + 1⟩⟩))) ∧
  (∀ (s : State) (x : Transfer), s.pool.transfer = some x → x.kind = .scrub → x.requester = .scrubber →
    ∃ u t, exec .scrubEnd s = .next t ∧ exec .poolGrant u = .next t ∧ (s.noneWaits → t = u) ∧
      u.pool = { t.pool with transfer := none } ∧
      u.scrubber = (if s.scrubber.interval = 0 then ⟨0, s.scrubber.position + 1, .off, none⟩
        else ⟨s.scrubber.interval, s.scrubber.position + 1, .timing, some ⟨0, s.scrubber.interval.toNat + 1⟩⟩) ∧
      s.sameBut { u with pool := s.pool, scrubber := s.scrubber } [] [])

/-! ## The part as a whole -/

/-- Power-on sets every block to its power-on values; device reset sets all but the pool controller to them. At the pool a
device reset changes nothing with no transfer in flight; a transfer cut poisons every block of its write set and leaves its bytes
unknown, and leaves every other block and byte as it was. Each block cut is offered to the fault list: it stays where it is in
the list, or is appended while there is room, or sets the overflow mark; with nothing to offer, as for a read that failed, list
and mark stay (R13, R16, R17, R33, R80, R113, R146, R147, R153, R154, R162). The model's are the data bus at 00h (log 1), the
power-on state as the reset state (log 27), and that the queue of commands stays (log 14).
The model's log entries it rests on: 1, 8, 9, 11, 12, 14, 27. -/
def Obligations.PowerOnAndDeviceReset : Prop :=
  (∀ s : State, exec .powerOn s = .next { State.reset with pending := s.pending } ∧
    ∃ t, exec .deviceReset s = .next t ∧ t.ports = State.reset.ports ∧ t.locks = State.reset.locks ∧
      t.arbiter = State.reset.arbiter ∧ t.scrubber = State.reset.scrubber ∧ t.rights = State.reset.rights ∧ t.now = 0 ∧
      t.pending = s.pending ∧ t.pool.transfer = none ∧ t.pool.corrected = s.pool.corrected) ∧
  (∀ s : State, ∃ t, exec .deviceReset s = .next t ∧
    (s.pool.transfer = none → t.pool = s.pool) ∧
    ∀ x : Transfer, s.pool.transfer = some x →
      (x.kind = .store ∨ x.kind = .zero → x.writeSet = [x.block]) ∧
      (∀ d : BlockNo, x.kind = .copy → x.dest = some d → x.result = .success false → x.writeSet = [d]) ∧
      (∀ d c : BlockNo, x.kind = .copy → x.dest = some d → x.result = .success true →
        (c ∈ x.writeSet ↔ c = d ∨ c = x.block) ∧ (x.writeSet = [x.block, d] ∨ x.writeSet = [d, x.block])) ∧
      (x.kind = .copy → (∀ m : Bool, x.result ≠ .success m) → x.writeSet = []) ∧
      (x.kind = .load ∨ x.kind = .verify ∨ x.kind = .scrub → x.result = .success true → x.writeSet = [x.block]) ∧
      (x.kind = .load ∨ x.kind = .verify ∨ x.kind = .scrub → x.result ≠ .success true → x.writeSet = []) ∧
      (∀ b ∈ x.writeSet, t.pool.stateOf b = .poisoned ∧ (∀ j < 144, Memory.byteAt? t.pool.mem (storeAddr b j) = none) ∧
        (b ∈ t.pool.faults ∨ t.pool.overflow = true)) ∧
      (∀ b ∉ x.writeSet, t.pool.stateOf b = s.pool.stateOf b ∧
        ∀ j < 144, Memory.byteAt? t.pool.mem (storeAddr b j) = Memory.byteAt? s.pool.mem (storeAddr b j)) ∧
      ((t.pool.faults, t.pool.overflow) = x.writeSet.foldl
        (fun o b => if b ∈ o.1 then o else if o.1.length < 16 then (o.1 ++ [b], o.2) else (o.1, true))
        (s.pool.faults, s.pool.overflow)) ∧
      (x.writeSet = [] → t.pool.faults = s.pool.faults ∧ t.pool.overflow = s.pool.overflow) ∧
      ∃ added : List BlockNo, t.pool.faults = s.pool.faults ++ added ∧ ∀ b ∈ added, b ∈ x.writeSet)

/-- A disturbance changes one stored bit, if its byte is known, and nothing else that the part keeps (R2).
The model's log entries it rests on: 9, 11. -/
def Obligations.DisturbanceChangesOneStoredBit : Prop :=
  ∀ (s : State) (b : BlockNo) (g : Fin 16) (k : Fin 72),
    let a := storeAddr b (if k.val < 64 then 8 * g.val + k.val / 8 else 128 + g.val)
    ∃ t, exec (.storedBitDisturbance b g k) s = .next t ∧
      Memory.byteAt? t.pool.mem a = (Memory.byteAt? s.pool.mem a).map (fun v => v ^^^ (1#8 <<< (k.val % 8))) ∧
      (∀ c : Nat, c ≠ a → Memory.byteAt? t.pool.mem c = Memory.byteAt? s.pool.mem c) ∧
      t.pool = { s.pool with mem := t.pool.mem, wrong := t.pool.wrong } ∧ s.sameBut { t with pool := s.pool } [] []

/-! ## The pool arbiter -/

/-- The request granted next: the scrub request once 16 port grants have passed it; otherwise the first waiting port, in
ROTATE counted from the port after the pointer, in FIXED from port 0; otherwise the scrub request (R82, R84).
The model's log entries it rests on: 20. -/
def Obligations.ArbiterChoice : Prop :=
  ∀ a : Arbiter,
    (a.scrubReq ≠ none → 16 ≤ a.scrubWait → a.choose = some .scrubber) ∧
    (∀ p : PortId, (a.scrubReq = none ∨ a.scrubWait < 16) → a.waiting[p].isSome →
      (a.mode = .fixed → (∀ q : PortId, q < p → a.waiting[q] = none) → a.choose = some (.port p)) ∧
      (a.mode = .rotate → (∀ q : PortId, q - a.pointer - 1 < p - a.pointer - 1 → a.waiting[q] = none) →
        a.choose = some (.port p))) ∧
    ((∀ p : PortId, a.waiting[p] = none) → a.choose = if a.scrubReq.isSome then some .scrubber else none)

/-- In ROTATE each grant to another port brings a waiting port nearer to its turn, so it is granted within four port grants
(R82, R87, R136). -/
def Obligations.RotationReachesEveryPort : Prop :=
  ∀ (a : Arbiter) (p q : PortId), a.mode = .rotate → a.waiting[p].isSome → a.choose = some (.port q) → q ≠ p →
    (a.grantedPort q).waiting[p] = a.waiting[p] ∧
      (p - (a.grantedPort q).pointer - 1 : Fin 4) < (p - a.pointer - 1 : Fin 4)

/-- The access check at a grant: a read is allowed on an open block and to a holder of the covering lock, a write on an open
block and to the EXCLUSIVE holder; a copy reads its source and writes its destination (R20, R22). -/
def Obligations.AccessCheck : Prop :=
  ∀ (s : State) (p : PortId) (b : BlockNo), s.rangesDisjoint →
    ((∀ l : LockId, (s.lockAt l).covers b = false) → s.mayRead p b = true ∧ s.mayWrite p b = true) ∧
    (∀ l : LockId, (s.lockAt l).covers b = true →
      (s.mayRead p b = true ↔ (s.lockAt l).holds p = true) ∧
      (s.mayWrite p b = true ↔ (s.lockAt l).holds p = true ∧ (s.lockAt l).mode = .exclusive)) ∧
    (∀ d : Option BlockNo, s.accessAllowed p ⟨.load, b, d⟩ = s.mayRead p b ∧ s.accessAllowed p ⟨.verify, b, d⟩ = s.mayRead p b ∧
      s.accessAllowed p ⟨.store, b, d⟩ = s.mayWrite p b ∧ s.accessAllowed p ⟨.zero, b, d⟩ = s.mayWrite p b) ∧
    ∀ d : BlockNo, s.accessAllowed p ⟨.copy, b, some d⟩ = (s.mayRead p b && s.mayWrite p d)

/-- A port's pool request arrives: it waits while a transfer is in flight; with the pool free it is followed at the same event by
the grant of the request chosen. A grant to a port begins an allowed transfer; a refused one ends the command ACCESS, with staging
of a WRITE BLOCKS discarded, or lets a held port reset take effect in its place (R111), and the next grant follows at the same
event, since the pool is still free; that it is checked in the state after that end or reset, with the holds the reset released
gone, is the model's order (log 19). A grant to the scrubber begins the scrub of a GOOD block; another block is skipped, and the
next grant follows (R149). A grant to a port counts for a waiting scrub request (R81, R82, R83, R84, R124, R128). Without a
request on its way an arrival changes nothing (the model's choice, log 3); a stand-alone grant finds something to do only in states
no run reaches, and stands in other statements for the grant inside the end of a transfer (log 6).
The model's log entries it rests on: 3, 5, 6, 8, 19, 20, 26. -/
def Obligations.ArrivalAndGrant : Prop :=
  (∀ (s : State) (p : PortId),
    let q := s.port p
    ((∀ r : PoolRequest, q.outgoing ≠ some (.pool r)) → exec (.poolRequestArrival p) s = .next s) ∧
    ∀ r : PoolRequest, q.outgoing = some (.pool r) → ∃ t, exec (.poolRequestArrival p) s = .next t ∧
      (s.pool.transfer ≠ none → t.port p = { q with outgoing := none } ∧
        t.arbiter = { s.arbiter with waiting := s.arbiter.waiting.set p (some r) } ∧
        s.sameBut { t with arbiter := s.arbiter } [p] []) ∧
      (s.pool.transfer = none → ∃ u, exec .poolGrant u = .next t ∧ u.port p = { q with outgoing := none } ∧
        u.arbiter = { s.arbiter with waiting := s.arbiter.waiting.set p (some r) } ∧
        s.sameBut { u with arbiter := s.arbiter } [p] []) ∧
      (s.pool.transfer = none → s.noneWaits → s.accessAllowed p r = true →
        t.port p = { q with outgoing := none, state := if q.held.isSome then .aborting else q.state } ∧
        t.arbiter = { s.arbiter with pointer := p } ∧
        t.pool = { s.pool with transfer := some (s.transferOf p r) } ∧
        s.sameBut { t with arbiter := s.arbiter, pool := s.pool } [p] []) ∧
      (s.pool.transfer = none → s.noneWaits → s.accessAllowed p r = false → q.held ≠ some .portReset →
        t.port p = { q with
          state := .ready, kind := .access, done := true, running := none, outgoing := none, held := none,
          index := match q.running with
            | some ⟨.writeBlocks, _⟩ => 0
            | _ => q.index } ∧
        t.arbiter = { s.arbiter with pointer := p } ∧ s.sameBut { t with arbiter := s.arbiter } [p] []) ∧
      (s.pool.transfer = none → s.noneWaits → s.accessAllowed p r = false → q.held = some .portReset →
        s.resetOf t p ∧ t.arbiter = { s.arbiter with pointer := p } ∧
        s.sameBut { t with arbiter := s.arbiter } allPorts allLocks)) ∧
  (∀ s : State,
    (s.pool.transfer ≠ none ∨ s.arbiter.choose = none → exec .poolGrant s = .next s) ∧
    (∀ (p : PortId) (r : PoolRequest), s.pool.transfer = none → s.arbiter.choose = some (.port p) →
      s.arbiter.waiting[p] = some r →
      let q := s.port p
      let taken := { s.arbiter with
        waiting := s.arbiter.waiting.set p none, pointer := p
        scrubWait := if s.arbiter.scrubReq.isSome then s.arbiter.scrubWait + 1 else s.arbiter.scrubWait }
      (s.accessAllowed p r = true → ∃ t, exec .poolGrant s = .next t ∧
        t.port p = { q with state := if q.held.isSome then .aborting else q.state } ∧ t.arbiter = taken ∧
        t.pool = { s.pool with transfer := some (s.transferOf p r) } ∧
        s.sameBut { t with arbiter := s.arbiter, pool := s.pool } [p] []) ∧
      (s.accessAllowed p r = false → q.held ≠ some .portReset →
        ∃ u t, exec .poolGrant s = .next t ∧ exec .poolGrant u = .next t ∧
          u.port p = { q.complete .access with
            index := match q.running with
              | some ⟨.writeBlocks, _⟩ => 0
              | _ => q.index } ∧
          u.arbiter = taken ∧ s.sameBut { u with arbiter := s.arbiter } [p] []) ∧
      (s.accessAllowed p r = false → q.held = some .portReset →
        ∃ u t, exec .poolGrant s = .next t ∧ exec .poolGrant u = .next t ∧ s.resetOf u p ∧ u.arbiter = taken ∧
          s.sameBut { u with arbiter := s.arbiter } allPorts allLocks)) ∧
    ∀ b : BlockNo, s.pool.transfer = none → s.arbiter.choose = some .scrubber → s.arbiter.scrubReq = some b →
      let c := s.scrubber
      let taken := { s.arbiter with scrubReq := none, scrubWait := 0 }
      (s.pool.stateOf b = .good → exec .poolGrant s = .next { s with
        arbiter := taken
        scrubber := { c with phase := .scrubbing }
        pool := { s.pool with
          transfer := some ⟨.scrubber, .scrub, b, none, some (s.pool.readBlock b).1, (s.pool.readBlock b).2⟩ } }) ∧
      (s.pool.stateOf b ≠ .good → exec .poolGrant s = exec .poolGrant { s with
        arbiter := taken
        scrubber := if c.interval = 0 then ⟨0, c.position + 1, .off, none⟩
          else ⟨c.interval, c.position + 1, .timing, some ⟨0, c.interval.toNat + 1⟩⟩ }))

/-- The transfer a grant begins: a store takes the port's staging as it stands, a zero takes 00h bytes, the others the read of
their block, settled at the start (R4, R5, R6, R9). The outcome of a read, of a port's or of the scrubber's transfer, follows from
the block's state and from its 16 groups: BLANK for an UNWRITTEN block, UNCORRECTABLE without a new offer for a POISONED one, and
for a GOOD block a find of uncorrectable groups, a correction of as many groups as are classed correctable, or clean (R5, R6, R14).
The model's log entries it rests on: 10, 11, 28. -/
def Obligations.TransferAtItsStart : Prop :=
  ∀ (s : State) (p : PortId) (b : BlockNo) (d : Option BlockNo),
    s.transferOf p ⟨.store, b, d⟩ = ⟨.port p, .store, b, d, none, (s.port p).staging⟩ ∧
    s.transferOf p ⟨.zero, b, d⟩ = ⟨.port p, .zero, b, d, none, Vector.replicate 128 0⟩ ∧
    (∀ x : Transfer, x.read = some (s.pool.readBlock b).1 →
      let n := ((List.finRange 16).filter fun g => s.pool.groupClass b g.val = .correctable).length
      (s.pool.stateOf b = .unwritten → x.readResult = .blank) ∧ (s.pool.stateOf b = .poisoned → x.readResult = .poisoned) ∧
      (s.pool.stateOf b = .good → (∃ g : Fin 16, s.pool.groupClass b g.val = .uncorrectable) →
        x.readResult = .foundUncorrectable) ∧
      (s.pool.stateOf b = .good → (∀ g : Fin 16, s.pool.groupClass b g.val ≠ .uncorrectable) →
        x.readResult = if n = 0 then .clean else .corrected n)) ∧
    (∀ j : Fin 128, s.pool.stateOf b = .good → (s.pool.readBlock b).2[j] = s.pool.usedByte b j.val) ∧
    ∀ k ∈ [TransferKind.load, .copy, .verify],
      ((s.transferOf p ⟨k, b, d⟩).read = some (s.pool.readBlock b).1 ∧
        (s.transferOf p ⟨k, b, d⟩).data = (s.pool.readBlock b).2) ∧
      (s.transferOf p ⟨k, b, d⟩).requester = .port p ∧ (s.transferOf p ⟨k, b, d⟩).kind = k ∧
      (s.transferOf p ⟨k, b, d⟩).block = b ∧ (s.transferOf p ⟨k, b, d⟩).dest = d ∧
      (s.pool.stateOf b = .unwritten → (s.transferOf p ⟨k, b, d⟩).result = .failure .blank) ∧
      (s.pool.stateOf b = .poisoned → (s.transferOf p ⟨k, b, d⟩).result = .failure .uncorrectable) ∧
      (s.pool.stateOf b = .good →
        (∃ g : Fin 16, s.pool.groupClass b g.val = .uncorrectable) →
          (s.transferOf p ⟨k, b, d⟩).result = .failure .uncorrectable) ∧
      (s.pool.stateOf b = .good → (∀ g : Fin 16, s.pool.groupClass b g.val ≠ .uncorrectable) →
        (s.transferOf p ⟨k, b, d⟩).result =
          .success (decide (∃ g : Fin 16, s.pool.groupClass b g.val = .correctable)) ∧
        ∀ j : Fin 128, (s.transferOf p ⟨k, b, d⟩).data[j] = s.pool.usedByte b j.val)

/-- The withdrawal of a port's pool request before its grant: the request goes, the pointer stays, and the command ends
ABORTED or the held port reset takes effect; with nothing held or nothing requested there is nothing to take (R85, R86, R91, R108,
R111, R151). By itself the withdrawal of the scrubber's request acts only on a request that stands at an interval of 0, in a state
no run reaches, since SET SCRUB withdraws it at its own event (log 17); in every other state it changes nothing (log 3).
The model's log entries it rests on: 3, 5, 8, 16, 17, 26. -/
def Obligations.PoolRequestWithdrawal : Prop :=
  ∀ (s : State) (p : PortId),
    let gone := { s.arbiter with waiting := s.arbiter.waiting.set p none }
    (s.poolRequested p = true → (s.port p).held = some .abort →
      ∃ t, exec (.poolRequestWithdrawal (.port p)) s = .next t ∧ t.port p = (s.port p).complete .aborted ∧ t.arbiter = gone ∧
        s.sameBut { t with arbiter := s.arbiter } [p] []) ∧
    (s.poolRequested p = true → (s.port p).held = some .portReset →
      ∃ t, exec (.poolRequestWithdrawal (.port p)) s = .next t ∧ s.resetOf t p ∧ t.arbiter = gone ∧
        s.sameBut { t with arbiter := s.arbiter } allPorts allLocks) ∧
    (s.poolRequested p = false ∨ (s.port p).held = none → exec (.poolRequestWithdrawal (.port p)) s = .next s) ∧
    (s.scrubber.phase = .requested → s.scrubber.interval = 0 → s.arbiter.scrubReq.isSome →
      ∃ t, exec (.poolRequestWithdrawal .scrubber) s = .next t ∧
        t.arbiter = { s.arbiter with scrubReq := none, scrubWait := 0 } ∧
        t.scrubber = { s.scrubber with phase := .off, timer := none } ∧
        s.sameBut { t with arbiter := s.arbiter, scrubber := s.scrubber } [] []) ∧
    (¬ (s.scrubber.phase = .requested ∧ s.scrubber.interval = 0 ∧ s.arbiter.scrubReq.isSome) →
      exec (.poolRequestWithdrawal .scrubber) s = .next s)

/-! ## The ends of transfers -/

/-- The end of a store or a zero: the block holds the bytes of the transfer with fresh check bytes and is GOOD, its fault list
entry is gone, and every other byte, state and entry, the overflow mark and the count are as before. An end without such a
transfer in flight has no effect (R3, R9, R13, R14).
The model's log entries it rests on: 3, 9, 10. -/
def Obligations.EndOfAWrite : Prop :=
  ∀ s : State, ∀ i ∈ [(Instr.storeEnd, TransferKind.store), (.zeroEnd, .zero)],
    (∀ x : Transfer, s.pool.transfer = some x → x.kind = i.2 →
      ∃ t, exec i.1 s = .next t ∧ s.pool.holdsAfter t.pool x.block x.data ∧
        t.pool.faults = s.pool.faults.filter (fun b => b ≠ x.block) ∧ t.pool.overflow = s.pool.overflow ∧
        t.pool.corrected = s.pool.corrected) ∧
    ((∀ x : Transfer, s.pool.transfer = some x → x.kind ≠ i.2) → exec i.1 s = .next s)

/-- The end of a load, verify or scrub, by its read outcome: a clean, blank or poisoned read changes nothing at the pool; a
corrected one writes the block back and raises the corrected-group count, up to 65,535; an uncorrectable one poisons the block
and offers it to the fault list of 16, setting the overflow mark when it is full (R5 to R8, R10, R12 to R14).
The model's log entries it rests on: 3, 9. -/
def Obligations.EndOfARead : Prop :=
  ∀ s : State, ∀ i ∈ [(Instr.loadEnd, TransferKind.load), (.verifyEnd, .verify), (.scrubEnd, .scrub)],
    (∀ x : Transfer, s.pool.transfer = some x → x.kind = i.2 →
      ∃ t, exec i.1 s = .next t ∧
        (x.readResult = .clean ∨ x.readResult = .blank ∨ x.readResult = .poisoned →
          t.pool = { s.pool with transfer := t.pool.transfer }) ∧
        (∀ n : Nat, x.readResult = .corrected n → s.pool.holdsAfter t.pool x.block x.data ∧
          t.pool.faults = s.pool.faults.filter (fun b => b ≠ x.block) ∧ t.pool.overflow = s.pool.overflow ∧
          t.pool.corrected.toNat = min 65535 (s.pool.corrected.toNat + n)) ∧
        (x.readResult = .foundUncorrectable → t.pool.stateOf x.block = .poisoned ∧
          (∀ c : BlockNo, c ≠ x.block → t.pool.stateOf c = s.pool.stateOf c) ∧
          (∀ a : Nat, Memory.byteAt? t.pool.mem a = Memory.byteAt? s.pool.mem a) ∧
          t.pool.corrected = s.pool.corrected ∧
          (x.block ∈ s.pool.faults → t.pool.faults = s.pool.faults ∧ t.pool.overflow = s.pool.overflow) ∧
          (x.block ∉ s.pool.faults → s.pool.faults.length < 16 →
            t.pool.faults = s.pool.faults ++ [x.block] ∧ t.pool.overflow = s.pool.overflow) ∧
          (x.block ∉ s.pool.faults → 16 ≤ s.pool.faults.length →
            t.pool.faults = s.pool.faults ∧ t.pool.overflow = true))) ∧
    ((∀ x : Transfer, s.pool.transfer = some x → x.kind ≠ i.2) → exec i.1 s = .next s)

/-- The end of a copy: after a clean read the destination holds the source's bytes; after a corrected one both blocks hold the
corrected bytes with fresh check bytes and the count rises; a read that fails leaves every stored byte, the destination's state
and its fault list entry and the count as they were, and an uncorrectable one poisons the source and offers it to the fault list
of 16, setting the overflow mark when it is full (R3, R7, R8, R11, R13, R14). An end without a copy in flight has no effect (the
model's choice, log 3).
The model's log entries it rests on: 3, 9, 10. -/
def Obligations.EndOfACopy : Prop :=
  (∀ s : State, (∀ x : Transfer, s.pool.transfer = some x → x.kind ≠ .copy) → exec .copyEnd s = .next s) ∧
  ∀ (s : State) (x : Transfer) (d : BlockNo), s.pool.transfer = some x → x.kind = .copy → x.dest = some d →
    ∃ t, exec .copyEnd s = .next t ∧
      (x.readResult = .clean → s.pool.holdsAfter t.pool d x.data ∧
        t.pool.faults = s.pool.faults.filter (fun b => b ≠ d) ∧ t.pool.overflow = s.pool.overflow ∧
        t.pool.corrected = s.pool.corrected) ∧
      (∀ n : Nat, x.readResult = .corrected n →
        (∀ b ∈ [x.block, d], t.pool.stateOf b = .good ∧
          (∀ j : Fin 128, Memory.byteAt? t.pool.mem (storeAddr b j.val) = some x.data[j]) ∧
          ∀ g : Fin 16, Memory.byteAt? t.pool.mem (storeAddr b (128 + g.val)) =
            some (Config.checkByte (wordOf fun i => x.data[8 * g.val + i]?.getD 0))) ∧
        (∀ a : Nat, (∀ b ∈ [x.block, d], ∀ j < 144, a ≠ storeAddr b j) →
          Memory.byteAt? t.pool.mem a = Memory.byteAt? s.pool.mem a) ∧
        (∀ c : BlockNo, c ≠ x.block → c ≠ d → t.pool.stateOf c = s.pool.stateOf c) ∧
        t.pool.faults = s.pool.faults.filter (fun b => b ≠ x.block ∧ b ≠ d) ∧ t.pool.overflow = s.pool.overflow ∧
        t.pool.corrected.toNat = min 65535 (s.pool.corrected.toNat + n)) ∧
      (x.readResult = .blank ∨ x.readResult = .poisoned → t.pool = { s.pool with transfer := t.pool.transfer }) ∧
      (x.readResult = .foundUncorrectable → t.pool.stateOf x.block = .poisoned ∧
        (∀ c : BlockNo, c ≠ x.block → t.pool.stateOf c = s.pool.stateOf c) ∧
        (∀ a : Nat, Memory.byteAt? t.pool.mem a = Memory.byteAt? s.pool.mem a) ∧
        t.pool.corrected = s.pool.corrected ∧
        (x.block ∈ s.pool.faults → t.pool.faults = s.pool.faults ∧ t.pool.overflow = s.pool.overflow) ∧
        (x.block ∉ s.pool.faults → s.pool.faults.length < 16 →
          t.pool.faults = s.pool.faults ++ [x.block] ∧ t.pool.overflow = s.pool.overflow) ∧
        (x.block ∉ s.pool.faults → 16 ≤ s.pool.faults.length →
          t.pool.faults = s.pool.faults ∧ t.pool.overflow = true))

/-- The result of a transfer at its port in EXEC: a failure ends the command with its kind; a
load opens a data phase with its bytes; a store, zero, verify or copy completes the block, and the command goes on with the next
block or pair in its direction or ends NONE after the last; a correction mark sets CORR (R88, R116, R118, R121, R123, R129,
R131). The next grant follows at the same event, in the state that the result leaves (R81, R87); with no request waiting nothing
more happens.
The model's log entries it rests on: 5, 6, 19. -/
def Obligations.ResultAtAPortInExec : Prop :=
  ∀ (s : State) (p : PortId) (x : Transfer),
    let q := s.port p
    let more : BlockNo → BlockNo → Port := fun b d => { q with count := q.count - 1, block := b, dest := d }
    s.pool.transfer = some x → x.requester = .port p → q.state = .exec →
    ∀ i ∈ [(Instr.loadEnd, TransferKind.load), (.storeEnd, .store), (.zeroEnd, .zero), (.copyEnd, .copy),
        (.verifyEnd, .verify)], x.kind = i.2 →
      ∃ u t, exec i.1 s = .next t ∧ exec .poolGrant u = .next t ∧ (s.noneWaits → t = u) ∧
        u.pool = { t.pool with transfer := none } ∧ s.sameBut { u with pool := s.pool } [p] [] ∧
        (∀ k : ErrorKind, x.result = .failure k → u.port p = q.complete k) ∧
        (∀ m : Bool, x.result = .success m →
          (i.2 = .load → u.port p =
            { q with state := .dataIn, index := 0, staging := x.data, corr := q.corr || m }) ∧
          (i.2 ≠ .load → q.count = 1 → u.port p = { q.complete .none with count := 0, corr := q.corr || m }) ∧
          (∀ d : Direction, 2 ≤ q.count.toNat →
            (i.2 = .store → q.running = some ⟨.writeBlocks, d⟩ → u.port p =
              { more (q.block + 1) q.dest with state := .dataOut, index := 0, corr := q.corr || m }) ∧
            (i.2 = .zero → q.running = some ⟨.zeroBlocks, d⟩ → u.port p =
              { more (q.block + 1) q.dest with
                corr := q.corr || m, outgoing := some (.pool ⟨.zero, q.block + 1, none⟩) }) ∧
            (i.2 = .verify → q.running = some ⟨.verifyBlocks, d⟩ → u.port p =
              { more (q.block + 1) q.dest with
                corr := q.corr || m, outgoing := some (.pool ⟨.verify, q.block + 1, none⟩) }) ∧
            (i.2 = .copy → q.running = some ⟨.copyBlocks, .ascending⟩ → u.port p =
              { more (q.block + 1) (q.dest + 1) with
                corr := q.corr || m, outgoing := some (.pool ⟨.copy, q.block + 1, some (q.dest + 1)⟩) }) ∧
            (i.2 = .copy → q.running = some ⟨.copyBlocks, .descending⟩ → u.port p =
              { more (q.block - 1) (q.dest - 1) with
                corr := q.corr || m, outgoing := some (.pool ⟨.copy, q.block - 1, some (q.dest - 1)⟩) })))

/-- The end of a transfer at its port in ABORTING: a held port reset takes effect; a held abort first settles the block, which
counts as completed if it was stored, zeroed, copied or verified, and the command ends ABORTED (R110, R111, R134). The next grant
follows at the same event, in the state that this leaves (R81, R87); with no request waiting nothing more happens.
The model's log entries it rests on: 6, 8, 19, 24, 26. -/
def Obligations.TransferEndInAborting : Prop :=
  ∀ (s : State) (p : PortId) (x : Transfer),
    let q := s.port p
    s.pool.transfer = some x → x.requester = .port p → q.state = .aborting →
    ∀ i ∈ [(Instr.loadEnd, TransferKind.load), (.storeEnd, .store), (.zeroEnd, .zero), (.copyEnd, .copy),
        (.verifyEnd, .verify)], x.kind = i.2 →
      ∃ u t, exec i.1 s = .next t ∧ exec .poolGrant u = .next t ∧ (s.noneWaits → t = u) ∧
        u.pool = { t.pool with transfer := none } ∧
        (q.held = some .portReset → s.resetOf u p ∧ s.sameBut { u with pool := s.pool } allPorts allLocks) ∧
        (q.held = some .abort → s.sameBut { u with pool := s.pool } [p] [] ∧
          (∀ k : ErrorKind, x.result = .failure k → u.port p = q.complete .aborted) ∧
          (∀ m : Bool, x.result = .success m →
            (i.2 = .load → u.port p =
              { q.complete .aborted with index := 0, staging := x.data, corr := q.corr || m }) ∧
            (i.2 ≠ .load → u.port p = { q.blockCompleted.complete .aborted with corr := q.corr || m } ∧
              (u.port p).count = q.count - 1)))

/-! ## Laws of the pool and of the queues -/

/-- A block just written reads back clean; one stored bit changed after that, data or check, is corrected and read as it was
written; two changed bits of one group are beyond correction. What a write stores agrees in every group; with three wrong bits or
more a group is clean exactly if its data and check byte agree, and correctable only through a bit whose change makes them agree
(R2, R5, R9; which bit, if any, is a free value).
The model's log entries it rests on: 9, 10. -/
def Obligations.WrittenBlockReadsBack : Prop :=
  ∀ (P : Pool) (b : BlockNo) (data : Bytes) (g : Fin 16) (k k' : Fin 72),
    let W := P.writeBlock b data
    W.readBlock b = (.checked (Vector.replicate 16 .clean), data) ∧
      (W.disturb b g k).readBlock b = (.checked ((Vector.replicate 16 .clean).set g .correctable), data) ∧
      (k ≠ k' → ((W.disturb b g k).disturb b g k').groupClass b g = .uncorrectable) ∧
      groupAgrees (W.storedGroup b g) = true ∧
      (3 ≤ (P.wrongBits b g).length →
        (P.groupClass b g = .clean ↔ groupAgrees (P.storedGroup b g) = true) ∧
        (P.groupClass b g = .correctable → ∃ i : Fin 72, P.identifiedBit b g = i.val ∧
          groupAgrees (P.storedGroup b g ^^^ (1#72 <<< i.val)) = true))

/-- Re-examination of a queue grants a front part of it, in order: SHARED waiters as long as the head is grantable, ending with
at most one EXCLUSIVE or UPGRADE grant; every one was grantable at its turn, the rest keeps its order, and if all granted were
SHARED its head is not grantable. A head is grantable by the holders alone: EXCLUSIVE without any, UPGRADE with itself as the
only one, SHARED in a mode not EXCLUSIVE (R38, R39). -/
def Obligations.Reexamination : Prop :=
  (∀ (k : Lock) (w : Waiter),
    (w.want = .exclusive → (k.grantable w = true ↔ ∀ p : PortId, k.holds p = false)) ∧
    (w.want = .upgrade → (k.grantable w = true ↔ ∀ p : PortId, k.holds p = true ↔ p = w.port)) ∧
    (w.want = .shared → (k.grantable w = true ↔ k.mode ≠ .exclusive))) ∧
  ∀ (lease : Option Tick) (queue : List Waiter) (k : Lock),
    let r := Lock.admitFrom lease queue k
    ∃ front : List Waiter, queue = front ++ r.1.queue ∧ r.2 = front.map Waiter.port ∧
      (∀ p : PortId, r.1.holders[p] = if p ∈ r.2 then some ⟨lease⟩ else k.holders[p]) ∧
      (r.1.defined = k.defined ∧ r.1.first = k.first ∧ r.1.count = k.count ∧ r.1.lease = k.lease) ∧
      (front = [] → r.1.mode = k.mode) ∧ (∀ w : Waiter, front.getLast? = some w → r.1.mode = w.want.mode) ∧
      (∀ w ∈ front.dropLast, w.want = .shared) ∧
      (∀ (i : Nat) (w : Waiter), front[i]? = some w → (Lock.admitFrom lease (front.take i) k).1.grantable w = true) ∧
      ((∀ w ∈ front, w.want = .shared) → ∀ w : Waiter, r.1.queue.head? = some w → r.1.grantable w = false)

/-! ## Rules of the whole part -/

/-- A host's access leaves another port's unit as it is, window, staging and running command alike, but for the end of that
port's own command with NONE or HOLD_LOST, for ids that enter its lost set, and for one note from the accessing port at the tail
of its note queue (R89, R163).
The model's log entries it rests on: 4, 7, 13. -/
def Obligations.HostAccessKeepsOtherWindows : Prop :=
  ∀ (i : Instr) (p q : PortId) (s t : State), i.hostPort = some p → q ≠ p → exec i s = .next t →
    let kept := { s.port q with lost := (t.port q).lost, notes := (t.port q).notes }
    (t.port q = kept ∨ t.port q = kept.complete .none ∨ t.port q = kept.complete .holdLost) ∧
      (∀ l : LockId, (s.port q).lost[l] = true → (t.port q).lost[l] = true) ∧
      ((t.port q).notes = (s.port q).notes ∨
        ∃ n : Note, n.sender = p ∧ (t.port q).notes = (s.port q).notes ++ [n])

/-- The rights change only at power-on, at device reset, and when the configuration takes a SET RIGHTS; which blocks a lock
covers, and its lease length, only at the two resets and when the table takes a DEFINE LOCK or UNDEFINE LOCK of that lock
(R20, R154).
The model's log entries it rests on: 4. -/
def Obligations.RightsAndCoverageChangeOnlyBy : Prop :=
  ∀ (i : Instr) (s t : State), exec i s = .next t → i ≠ .powerOn → i ≠ .deviceReset →
    (t.rights ≠ s.rights → i = .setRights 0 .takenAtOnce ∨ ∃ (p target : PortId) (give : Bool),
      i = .handedRequestArrival p ∧ (s.port p).outgoing = some (.handed (.setRights target give))) ∧
    ∀ l : LockId, ((t.lockAt l).defined, (t.lockAt l).first, (t.lockAt l).count, (t.lockAt l).lease) ≠
        ((s.lockAt l).defined, (s.lockAt l).first, (s.lockAt l).count, (s.lockAt l).lease) →
      (∃ p : PortId, (i = .defineLock p .takenAtOnce ∨ i = .undefineLock p .takenAtOnce) ∧ (s.port p).lock.toNat = l.val) ∨
      ∃ p : PortId, i = .handedRequestArrival p ∧ ((s.port p).outgoing = some (.handed (.undefineLock l)) ∨
        ∃ (f : BlockNo) (n e : Byte), (s.port p).outgoing = some (.handed (.defineLock l f n e)))

/-- Stored bytes, block states and the fault list change only at the end of a transfer, at device reset, at power-on, and the
bytes at a disturbance; and only power-on brings a block back to UNWRITTEN (R1, R2, R3, R13). -/
def Obligations.PoolChangesOnlyBy : Prop :=
  ∀ (i : Instr) (s t : State), exec i s = .next t → i ≠ .powerOn →
    (∀ b : BlockNo, s.pool.stateOf b ≠ .unwritten → t.pool.stateOf b ≠ .unwritten) ∧
    (i ∉ [Instr.deviceReset, .loadEnd, .storeEnd, .zeroEnd, .copyEnd, .verifyEnd, .scrubEnd] →
      t.pool.map = s.pool.map ∧ t.pool.faults = s.pool.faults ∧
        ((∀ b g k, i ≠ .storedBitDisturbance b g k) → ∀ a : Nat, Memory.byteAt? t.pool.mem a = Memory.byteAt? s.pool.mem a))

/-- If no request waits while the pool is free, so it is after every command (R81, R87).
The model's log entries it rests on: 6. -/
def Obligations.NoRequestWaitsWhileThePoolIsFree : Prop :=
  ∀ (i : Instr) (s t : State), (s.pool.transfer = none → s.arbiter.choose = none) → exec i s = .next t →
    t.pool.transfer = none → t.arbiter.choose = none

/-- A step keeps the pool sound: the canonical form of its stored bytes, a fault list of at most 16 distinct POISONED blocks,
and every byte of a GOOD block known (R3, R13).
The model's log entries it rests on: 9, 11. -/
def Obligations.StepKeepsThePoolSound : Prop :=
  ∀ s t : State, s.pool.sound → s.pool.goodKnown → step s = .next t → t.pool.sound ∧ t.pool.goodKnown

/-- A step keeps the whole part sound: the pool, every lock record and its queue, the queues against the port states, the
absence of a waits-for cycle, the port units, their requests, the arbiter and the scrubber.
The model's log entries it rests on: 2, 5, 9, 11. -/
def Obligations.StepKeepsThePartSound : Prop :=
  ∀ s t : State, s.sound → step s = .next t → t.sound

/-- In every state the part comes to from power-on, a port is in at most one waiter queue, at most once, and in one exactly
while it is in WAITLOCK (R36); a waiter is no holder, but for an UPGRADE waiter, which holds SHARED, of which a queue holds at
most one, at its head (R37). -/
def Obligations.WaitersAndHolders : Prop :=
  ∀ s : State, s.Reached →
    (∀ (p : PortId) (l m : LockId), (s.lockAt l).waits p = true → (s.lockAt m).waits p = true → l = m) ∧
    (∀ p : PortId, (s.port p).state = .waitLock ↔ ∃ l : LockId, (s.lockAt l).waits p = true) ∧
    ∀ l : LockId, ((s.lockAt l).queue.map Waiter.port).Nodup ∧
      ((s.lockAt l).queue.filter fun w => w.want = .upgrade).length ≤ 1 ∧
      ∀ w ∈ (s.lockAt l).queue,
        (w.want ≠ .upgrade → (s.lockAt l).holds w.port = false) ∧
        (w.want = .upgrade → (s.lockAt l).holds w.port = true ∧ (s.lockAt l).mode = .shared ∧
          (s.lockAt l).queue.head? = some w)

/-- In every state the part comes to from power-on, no port is reachable from itself through waits-for (R53, R55). -/
def Obligations.WaitsForHasNoCycle : Prop :=
  ∀ s : State, s.Reached → ∀ p : PortId, ¬ s.reachable p p
end

