-- ==== Sys2Proof/Laws/State.lean ====
section
/-! SUPPORT. One small lemma per field and per update of the state, so that no proof unfolds a record update. -/

namespace Sys2Proof.Machine

/-! ## Changing one port unit -/

section onPort

variable (s : State) (p q : PortId) (f : Port → Port)

@[simp] theorem State.port_onPort_self : (s.onPort p f).port p = f (s.port p) := by
  simp [State.onPort, State.port]

theorem State.port_onPort : (s.onPort p f).port q = if q = p then f (s.port p) else s.port q := by
  by_cases h : q = p
  · subst h; simp
  · have h' : p.val ≠ q.val := fun e => h (Fin.ext e.symm)
    simp [State.onPort, State.port, h, h']

@[simp] theorem State.port_onPort_ne {p q : PortId} (h : q ≠ p) : (s.onPort p f).port q = s.port q := by
  simp [State.port_onPort, h]

@[simp] theorem State.onPort_locks : (s.onPort p f).locks = s.locks := rfl
@[simp] theorem State.onPort_pool : (s.onPort p f).pool = s.pool := rfl
@[simp] theorem State.onPort_arbiter : (s.onPort p f).arbiter = s.arbiter := rfl
@[simp] theorem State.onPort_scrubber : (s.onPort p f).scrubber = s.scrubber := rfl
@[simp] theorem State.onPort_rights : (s.onPort p f).rights = s.rights := rfl
@[simp] theorem State.onPort_now : (s.onPort p f).now = s.now := rfl
@[simp] theorem State.onPort_pending : (s.onPort p f).pending = s.pending := rfl
@[simp] theorem State.lockAt_onPort (l : LockId) : (s.onPort p f).lockAt l = s.lockAt l := rfl

end onPort

/-! ## Putting one lock record -/

section setLock

variable (s : State) (l m : LockId) (k : Lock)

@[simp] theorem State.lockAt_setLock_self : (s.setLock l k).lockAt l = k := by simp [State.setLock, State.lockAt]

theorem State.lockAt_setLock : (s.setLock l k).lockAt m = if m = l then k else s.lockAt m := by
  by_cases h : m = l
  · subst h; simp
  · have h' : l.val ≠ m.val := fun e => h (Fin.ext e.symm)
    simp [State.setLock, State.lockAt, h, h']

@[simp] theorem State.lockAt_setLock_ne {l m : LockId} (h : m ≠ l) : (s.setLock l k).lockAt m = s.lockAt m := by
  simp [State.lockAt_setLock, h]

@[simp] theorem State.setLock_ports : (s.setLock l k).ports = s.ports := rfl
@[simp] theorem State.setLock_pool : (s.setLock l k).pool = s.pool := rfl
@[simp] theorem State.setLock_arbiter : (s.setLock l k).arbiter = s.arbiter := rfl
@[simp] theorem State.setLock_scrubber : (s.setLock l k).scrubber = s.scrubber := rfl
@[simp] theorem State.setLock_rights : (s.setLock l k).rights = s.rights := rfl
@[simp] theorem State.setLock_now : (s.setLock l k).now = s.now := rfl
@[simp] theorem State.setLock_pending : (s.setLock l k).pending = s.pending := rfl
@[simp] theorem State.port_setLock (p : PortId) : (s.setLock l k).port p = s.port p := rfl

end setLock

/-! ## Updates of one port unit -/

section complete

variable (q : Port) (k : ErrorKind)

@[simp] theorem Port.complete_state : (q.complete k).state = .ready := rfl
@[simp] theorem Port.complete_param : (q.complete k).param = q.param := rfl
@[simp] theorem Port.complete_count : (q.complete k).count = q.count := rfl
@[simp] theorem Port.complete_block : (q.complete k).block = q.block := rfl
@[simp] theorem Port.complete_dest : (q.complete k).dest = q.dest := rfl
@[simp] theorem Port.complete_lock : (q.complete k).lock = q.lock := rfl
@[simp] theorem Port.complete_done : (q.complete k).done = true := rfl
@[simp] theorem Port.complete_kind : (q.complete k).kind = k := rfl
@[simp] theorem Port.complete_rej : (q.complete k).rej = q.rej := rfl
@[simp] theorem Port.complete_corr : (q.complete k).corr = q.corr := rfl
@[simp] theorem Port.complete_irqen : (q.complete k).irqen = q.irqen := rfl
@[simp] theorem Port.complete_staging : (q.complete k).staging = q.staging := rfl
@[simp] theorem Port.complete_index : (q.complete k).index = q.index := rfl
@[simp] theorem Port.complete_lost : (q.complete k).lost = q.lost := rfl
@[simp] theorem Port.complete_notes : (q.complete k).notes = q.notes := rfl
@[simp] theorem Port.complete_running : (q.complete k).running = none := rfl
@[simp] theorem Port.complete_outgoing : (q.complete k).outgoing = none := rfl
@[simp] theorem Port.complete_held : (q.complete k).held = none := rfl
@[simp] theorem Port.complete_dataBus : (q.complete k).dataBus = q.dataBus := rfl

end complete

section discard

variable (q : Port)

@[simp] theorem Port.discard_state : (q.discard).state = q.state := rfl
@[simp] theorem Port.discard_param : (q.discard).param = q.param := rfl
@[simp] theorem Port.discard_count : (q.discard).count = q.count := rfl
@[simp] theorem Port.discard_block : (q.discard).block = q.block := rfl
@[simp] theorem Port.discard_dest : (q.discard).dest = q.dest := rfl
@[simp] theorem Port.discard_lock : (q.discard).lock = q.lock := rfl
@[simp] theorem Port.discard_done : (q.discard).done = q.done := rfl
@[simp] theorem Port.discard_kind : (q.discard).kind = q.kind := rfl
@[simp] theorem Port.discard_rej : (q.discard).rej = q.rej := rfl
@[simp] theorem Port.discard_corr : (q.discard).corr = q.corr := rfl
@[simp] theorem Port.discard_irqen : (q.discard).irqen = q.irqen := rfl
@[simp] theorem Port.discard_staging : (q.discard).staging = q.staging := rfl
@[simp] theorem Port.discard_index : (q.discard).index = 0 := rfl
@[simp] theorem Port.discard_lost : (q.discard).lost = q.lost := rfl
@[simp] theorem Port.discard_notes : (q.discard).notes = q.notes := rfl
@[simp] theorem Port.discard_running : (q.discard).running = q.running := rfl
@[simp] theorem Port.discard_outgoing : (q.discard).outgoing = q.outgoing := rfl
@[simp] theorem Port.discard_held : (q.discard).held = q.held := rfl
@[simp] theorem Port.discard_dataBus : (q.discard).dataBus = q.dataBus := rfl

end discard

section openPhase

variable (q : Port) (st : PortState)

@[simp] theorem Port.openPhase_state : (q.openPhase st).state = st := rfl
@[simp] theorem Port.openPhase_param : (q.openPhase st).param = q.param := rfl
@[simp] theorem Port.openPhase_count : (q.openPhase st).count = q.count := rfl
@[simp] theorem Port.openPhase_block : (q.openPhase st).block = q.block := rfl
@[simp] theorem Port.openPhase_dest : (q.openPhase st).dest = q.dest := rfl
@[simp] theorem Port.openPhase_lock : (q.openPhase st).lock = q.lock := rfl
@[simp] theorem Port.openPhase_done : (q.openPhase st).done = q.done := rfl
@[simp] theorem Port.openPhase_kind : (q.openPhase st).kind = q.kind := rfl
@[simp] theorem Port.openPhase_rej : (q.openPhase st).rej = q.rej := rfl
@[simp] theorem Port.openPhase_corr : (q.openPhase st).corr = q.corr := rfl
@[simp] theorem Port.openPhase_irqen : (q.openPhase st).irqen = q.irqen := rfl
@[simp] theorem Port.openPhase_staging : (q.openPhase st).staging = q.staging := rfl
@[simp] theorem Port.openPhase_index : (q.openPhase st).index = 0 := rfl
@[simp] theorem Port.openPhase_lost : (q.openPhase st).lost = q.lost := rfl
@[simp] theorem Port.openPhase_notes : (q.openPhase st).notes = q.notes := rfl
@[simp] theorem Port.openPhase_running : (q.openPhase st).running = q.running := rfl
@[simp] theorem Port.openPhase_outgoing : (q.openPhase st).outgoing = q.outgoing := rfl
@[simp] theorem Port.openPhase_held : (q.openPhase st).held = q.held := rfl
@[simp] theorem Port.openPhase_dataBus : (q.openPhase st).dataBus = q.dataBus := rfl

end openPhase

section offerBytes

variable (q : Port) (bs : Bytes)

@[simp] theorem Port.offerBytes_state : (q.offerBytes bs).state = .dataIn := rfl
@[simp] theorem Port.offerBytes_param : (q.offerBytes bs).param = q.param := rfl
@[simp] theorem Port.offerBytes_count : (q.offerBytes bs).count = q.count := rfl
@[simp] theorem Port.offerBytes_block : (q.offerBytes bs).block = q.block := rfl
@[simp] theorem Port.offerBytes_dest : (q.offerBytes bs).dest = q.dest := rfl
@[simp] theorem Port.offerBytes_lock : (q.offerBytes bs).lock = q.lock := rfl
@[simp] theorem Port.offerBytes_done : (q.offerBytes bs).done = q.done := rfl
@[simp] theorem Port.offerBytes_kind : (q.offerBytes bs).kind = q.kind := rfl
@[simp] theorem Port.offerBytes_rej : (q.offerBytes bs).rej = q.rej := rfl
@[simp] theorem Port.offerBytes_corr : (q.offerBytes bs).corr = q.corr := rfl
@[simp] theorem Port.offerBytes_irqen : (q.offerBytes bs).irqen = q.irqen := rfl
@[simp] theorem Port.offerBytes_staging : (q.offerBytes bs).staging = bs := rfl
@[simp] theorem Port.offerBytes_index : (q.offerBytes bs).index = 0 := rfl
@[simp] theorem Port.offerBytes_lost : (q.offerBytes bs).lost = q.lost := rfl
@[simp] theorem Port.offerBytes_notes : (q.offerBytes bs).notes = q.notes := rfl
@[simp] theorem Port.offerBytes_running : (q.offerBytes bs).running = q.running := rfl
@[simp] theorem Port.offerBytes_outgoing : (q.offerBytes bs).outgoing = q.outgoing := rfl
@[simp] theorem Port.offerBytes_held : (q.offerBytes bs).held = q.held := rfl
@[simp] theorem Port.offerBytes_dataBus : (q.offerBytes bs).dataBus = q.dataBus := rfl

end offerBytes

section requestBlock

variable (q : Port)

@[simp] theorem Port.requestBlock_state : (q.requestBlock).state = .exec := rfl
@[simp] theorem Port.requestBlock_param : (q.requestBlock).param = q.param := rfl
@[simp] theorem Port.requestBlock_count : (q.requestBlock).count = q.count := rfl
@[simp] theorem Port.requestBlock_block : (q.requestBlock).block = q.block := rfl
@[simp] theorem Port.requestBlock_dest : (q.requestBlock).dest = q.dest := rfl
@[simp] theorem Port.requestBlock_lock : (q.requestBlock).lock = q.lock := rfl
@[simp] theorem Port.requestBlock_done : (q.requestBlock).done = q.done := rfl
@[simp] theorem Port.requestBlock_kind : (q.requestBlock).kind = q.kind := rfl
@[simp] theorem Port.requestBlock_rej : (q.requestBlock).rej = q.rej := rfl
@[simp] theorem Port.requestBlock_corr : (q.requestBlock).corr = q.corr := rfl
@[simp] theorem Port.requestBlock_irqen : (q.requestBlock).irqen = q.irqen := rfl
@[simp] theorem Port.requestBlock_staging : (q.requestBlock).staging = q.staging := rfl
@[simp] theorem Port.requestBlock_index : (q.requestBlock).index = q.index := rfl
@[simp] theorem Port.requestBlock_lost : (q.requestBlock).lost = q.lost := rfl
@[simp] theorem Port.requestBlock_notes : (q.requestBlock).notes = q.notes := rfl
@[simp] theorem Port.requestBlock_running : (q.requestBlock).running = q.running := rfl
@[simp] theorem Port.requestBlock_outgoing : (q.requestBlock).outgoing = some (.pool q.poolRequest) := rfl
@[simp] theorem Port.requestBlock_held : (q.requestBlock).held = q.held := rfl
@[simp] theorem Port.requestBlock_dataBus : (q.requestBlock).dataBus = q.dataBus := rfl

end requestBlock

section addLost

variable (q : Port) (l : LockId)

@[simp] theorem Port.addLost_state : (q.addLost l).state = q.state := rfl
@[simp] theorem Port.addLost_param : (q.addLost l).param = q.param := rfl
@[simp] theorem Port.addLost_count : (q.addLost l).count = q.count := rfl
@[simp] theorem Port.addLost_block : (q.addLost l).block = q.block := rfl
@[simp] theorem Port.addLost_dest : (q.addLost l).dest = q.dest := rfl
@[simp] theorem Port.addLost_lock : (q.addLost l).lock = q.lock := rfl
@[simp] theorem Port.addLost_done : (q.addLost l).done = q.done := rfl
@[simp] theorem Port.addLost_kind : (q.addLost l).kind = q.kind := rfl
@[simp] theorem Port.addLost_rej : (q.addLost l).rej = q.rej := rfl
@[simp] theorem Port.addLost_corr : (q.addLost l).corr = q.corr := rfl
@[simp] theorem Port.addLost_irqen : (q.addLost l).irqen = q.irqen := rfl
@[simp] theorem Port.addLost_staging : (q.addLost l).staging = q.staging := rfl
@[simp] theorem Port.addLost_index : (q.addLost l).index = q.index := rfl
@[simp] theorem Port.addLost_lost : (q.addLost l).lost = q.lost.set l true := rfl
@[simp] theorem Port.addLost_notes : (q.addLost l).notes = q.notes := rfl
@[simp] theorem Port.addLost_running : (q.addLost l).running = q.running := rfl
@[simp] theorem Port.addLost_outgoing : (q.addLost l).outgoing = q.outgoing := rfl
@[simp] theorem Port.addLost_held : (q.addLost l).held = q.held := rfl
@[simp] theorem Port.addLost_dataBus : (q.addLost l).dataBus = q.dataBus := rfl

end addLost

section removeLost

variable (q : Port) (l : LockId)

@[simp] theorem Port.removeLost_state : (q.removeLost l).state = q.state := rfl
@[simp] theorem Port.removeLost_param : (q.removeLost l).param = q.param := rfl
@[simp] theorem Port.removeLost_count : (q.removeLost l).count = q.count := rfl
@[simp] theorem Port.removeLost_block : (q.removeLost l).block = q.block := rfl
@[simp] theorem Port.removeLost_dest : (q.removeLost l).dest = q.dest := rfl
@[simp] theorem Port.removeLost_lock : (q.removeLost l).lock = q.lock := rfl
@[simp] theorem Port.removeLost_done : (q.removeLost l).done = q.done := rfl
@[simp] theorem Port.removeLost_kind : (q.removeLost l).kind = q.kind := rfl
@[simp] theorem Port.removeLost_rej : (q.removeLost l).rej = q.rej := rfl
@[simp] theorem Port.removeLost_corr : (q.removeLost l).corr = q.corr := rfl
@[simp] theorem Port.removeLost_irqen : (q.removeLost l).irqen = q.irqen := rfl
@[simp] theorem Port.removeLost_staging : (q.removeLost l).staging = q.staging := rfl
@[simp] theorem Port.removeLost_index : (q.removeLost l).index = q.index := rfl
@[simp] theorem Port.removeLost_lost : (q.removeLost l).lost = q.lost.set l false := rfl
@[simp] theorem Port.removeLost_notes : (q.removeLost l).notes = q.notes := rfl
@[simp] theorem Port.removeLost_running : (q.removeLost l).running = q.running := rfl
@[simp] theorem Port.removeLost_outgoing : (q.removeLost l).outgoing = q.outgoing := rfl
@[simp] theorem Port.removeLost_held : (q.removeLost l).held = q.held := rfl
@[simp] theorem Port.removeLost_dataBus : (q.removeLost l).dataBus = q.dataBus := rfl

end removeLost

section appendNote

variable (q : Port) (n : Note)

@[simp] theorem Port.appendNote_state : (q.appendNote n).state = q.state := rfl
@[simp] theorem Port.appendNote_param : (q.appendNote n).param = q.param := rfl
@[simp] theorem Port.appendNote_count : (q.appendNote n).count = q.count := rfl
@[simp] theorem Port.appendNote_block : (q.appendNote n).block = q.block := rfl
@[simp] theorem Port.appendNote_dest : (q.appendNote n).dest = q.dest := rfl
@[simp] theorem Port.appendNote_lock : (q.appendNote n).lock = q.lock := rfl
@[simp] theorem Port.appendNote_done : (q.appendNote n).done = q.done := rfl
@[simp] theorem Port.appendNote_kind : (q.appendNote n).kind = q.kind := rfl
@[simp] theorem Port.appendNote_rej : (q.appendNote n).rej = q.rej := rfl
@[simp] theorem Port.appendNote_corr : (q.appendNote n).corr = q.corr := rfl
@[simp] theorem Port.appendNote_irqen : (q.appendNote n).irqen = q.irqen := rfl
@[simp] theorem Port.appendNote_staging : (q.appendNote n).staging = q.staging := rfl
@[simp] theorem Port.appendNote_index : (q.appendNote n).index = q.index := rfl
@[simp] theorem Port.appendNote_lost : (q.appendNote n).lost = q.lost := rfl
@[simp] theorem Port.appendNote_notes : (q.appendNote n).notes = q.notes ++ [n] := rfl
@[simp] theorem Port.appendNote_running : (q.appendNote n).running = q.running := rfl
@[simp] theorem Port.appendNote_outgoing : (q.appendNote n).outgoing = q.outgoing := rfl
@[simp] theorem Port.appendNote_held : (q.appendNote n).held = q.held := rfl
@[simp] theorem Port.appendNote_dataBus : (q.appendNote n).dataBus = q.dataBus := rfl

end appendNote

section popNote

variable (q : Port)

@[simp] theorem Port.popNote_state : (q.popNote).state = q.state := rfl
@[simp] theorem Port.popNote_param : (q.popNote).param = q.param := rfl
@[simp] theorem Port.popNote_count : (q.popNote).count = q.count := rfl
@[simp] theorem Port.popNote_block : (q.popNote).block = q.block := rfl
@[simp] theorem Port.popNote_dest : (q.popNote).dest = q.dest := rfl
@[simp] theorem Port.popNote_lock : (q.popNote).lock = q.lock := rfl
@[simp] theorem Port.popNote_done : (q.popNote).done = q.done := rfl
@[simp] theorem Port.popNote_kind : (q.popNote).kind = q.kind := rfl
@[simp] theorem Port.popNote_rej : (q.popNote).rej = q.rej := rfl
@[simp] theorem Port.popNote_corr : (q.popNote).corr = q.corr := rfl
@[simp] theorem Port.popNote_irqen : (q.popNote).irqen = q.irqen := rfl
@[simp] theorem Port.popNote_staging : (q.popNote).staging = q.staging := rfl
@[simp] theorem Port.popNote_index : (q.popNote).index = q.index := rfl
@[simp] theorem Port.popNote_lost : (q.popNote).lost = q.lost := rfl
@[simp] theorem Port.popNote_notes : (q.popNote).notes = q.notes.tail := rfl
@[simp] theorem Port.popNote_running : (q.popNote).running = q.running := rfl
@[simp] theorem Port.popNote_outgoing : (q.popNote).outgoing = q.outgoing := rfl
@[simp] theorem Port.popNote_held : (q.popNote).held = q.held := rfl
@[simp] theorem Port.popNote_dataBus : (q.popNote).dataBus = q.dataBus := rfl

end popNote

end Sys2Proof.Machine
end

