-- ==== Sys2Proof/Laws/Ops.lean ====
section
/-! SUPPORT. What the shared operations over several ports, and the arithmetic of deadlines and lost sets, can do. -/

namespace Sys2Proof.Machine

theorem mem_allPorts (p : PortId) : p ∈ allPorts := by revert p; decide

theorem mem_allLocks (l : LockId) : l ∈ allLocks := by revert l; decide

theorem nodup_allLocks : allLocks.Nodup := by decide

/-- Changing a port unit to what it is changes nothing. -/
theorem State.onPort_eq_self (s : State) (p : PortId) (f : Port → Port) (h : f (s.port p) = s.port p) : s.onPort p f = s := by
  simp only [State.onPort, h]; simp [State.port]

theorem State.onPort_onPort (s : State) (p : PortId) (f g : Port → Port) :
    (s.onPort p f).onPort p g = s.onPort p fun q => g (f q) := by simp [State.onPort, State.port]

theorem State.setLock_onPort (s : State) (l : LockId) (k : Lock) (p : PortId) (f : Port → Port) :
    (s.onPort p f).setLock l k = (s.setLock l k).onPort p f := rfl

theorem Port.complete_complete (q : Port) (k k' : ErrorKind) : (q.complete k).complete k' = q.complete k' := rfl

@[simp] theorem State.port_complete (s : State) (p q : PortId) (k : ErrorKind) :
    (s.complete p k).port q = if q = p then (s.port q).complete k else s.port q := by
  rw [State.complete, State.port_onPort]
  split <;> simp_all

/-- The commands of several ports end: each named port's command ends with the kind, and nothing else changes. -/
theorem State.port_completeAll (s : State) (ps : List PortId) (k : ErrorKind) (q : PortId) :
    (s.completeAll ps k).port q = if q ∈ ps then (s.port q).complete k else s.port q := by
  induction ps generalizing s with
  | nil => simp [State.completeAll]
  | cons p ps ih =>
    have h : s.completeAll (p :: ps) k = (s.complete p k).completeAll ps k := rfl
    rw [h, ih, State.port_complete]
    by_cases hq : q = p <;> by_cases hm : q ∈ ps <;> simp [hq, hm, Port.complete_complete]

/-- The rest of what the end of several commands leaves: all but the port units is as before. -/
theorem State.completeAll_rest (s : State) (ps : List PortId) (k : ErrorKind) :
    (s.completeAll ps k).locks = s.locks ∧ (s.completeAll ps k).pool = s.pool ∧ (s.completeAll ps k).arbiter = s.arbiter ∧
      (s.completeAll ps k).scrubber = s.scrubber ∧ (s.completeAll ps k).rights = s.rights ∧
      (s.completeAll ps k).now = s.now ∧ (s.completeAll ps k).pending = s.pending := by
  induction ps generalizing s with
  | nil => exact ⟨rfl, rfl, rfl, rfl, rfl, rfl, rfl⟩
  | cons p ps ih => exact ih (s.complete p k)

@[simp] theorem State.lockAt_completeAll (s : State) (ps : List PortId) (k : ErrorKind) (l : LockId) :
    (s.completeAll ps k).lockAt l = s.lockAt l := by simp [State.lockAt, (State.completeAll_rest s ps k).1]

theorem Port.addLost_addLost (q : Port) (l : LockId) : (q.addLost l).addLost l = q.addLost l := by
  simp [Port.addLost]

/-- A lock id enters several lost sets: each named port's, and nothing else changes. -/
theorem State.port_addLostAll (s : State) (ps : List PortId) (l : LockId) (q : PortId) :
    (s.addLostAll ps l).port q = if q ∈ ps then (s.port q).addLost l else s.port q := by
  induction ps generalizing s with
  | nil => simp [State.addLostAll]
  | cons p ps ih =>
    have h : s.addLostAll (p :: ps) l = (s.onPort p fun q => q.addLost l).addLostAll ps l := rfl
    rw [h, ih, State.port_onPort]
    by_cases hq : q = p
    · subst hq; by_cases hm : q ∈ ps <;> simp [hm, Port.addLost_addLost]
    · by_cases hm : q ∈ ps <;> simp [hq, hm]

theorem State.addLostAll_rest (s : State) (ps : List PortId) (l : LockId) :
    (s.addLostAll ps l).locks = s.locks ∧ (s.addLostAll ps l).pool = s.pool ∧ (s.addLostAll ps l).arbiter = s.arbiter ∧
      (s.addLostAll ps l).scrubber = s.scrubber ∧ (s.addLostAll ps l).rights = s.rights ∧ (s.addLostAll ps l).now = s.now ∧
      (s.addLostAll ps l).pending = s.pending := by
  induction ps generalizing s with
  | nil => exact ⟨rfl, rfl, rfl, rfl, rfl, rfl, rfl⟩
  | cons p ps ih => exact ih (s.onPort p fun q => q.addLost l)

/-- A completed block: COUNT falls by one, BLOCK and DEST move at most one step, and no other field changes. -/
theorem Port.blockCompleted_fields (q : Port) :
    q.blockCompleted = { q with
      count := q.count - 1, block := q.blockCompleted.block, dest := q.blockCompleted.dest } := by
  simp only [Port.blockCompleted]
  split
  · rfl
  · split <;> rfl

end Sys2Proof.Machine
end

