-- ==== Sys2Proof/Laws/LockTable.lean ====
section
/-! SUPPORT. What the lock table's shared operations can do: one lemma for each. -/

namespace Sys2Proof.Machine

/-- Re-examination keeps a record's definition, range and lease length. -/
theorem Lock.admit_range (lease : Option Tick) (w : List Waiter) (k : Lock) :
    (Lock.admitFrom lease w k).1.defined = k.defined ∧ (Lock.admitFrom lease w k).1.first = k.first ∧
      (Lock.admitFrom lease w k).1.count = k.count ∧ (Lock.admitFrom lease w k).1.lease = k.lease := by
  induction w generalizing k with
  | nil => exact ⟨rfl, rfl, rfl, rfl⟩
  | cons x w ih =>
    simp only [Lock.admitFrom]
    split
    · split
      · exact ih (k.grant x.port x.want lease)
      · exact ⟨rfl, rfl, rfl, rfl⟩
      · exact ⟨rfl, rfl, rfl, rfl⟩
    · exact ⟨rfl, rfl, rfl, rfl⟩

/-- The queue a record has does not count for the re-examination of a queue given with it. -/
theorem Lock.admit_queue (lease : Option Tick) (w v : List Waiter) (k : Lock) :
    Lock.admitFrom lease w { k with queue := v } = Lock.admitFrom lease w k := by
  induction w generalizing k v with
  | nil => rfl
  | cons x w ih =>
    have hg : Lock.grantable { k with queue := v } x = k.grantable x := rfl
    simp only [Lock.admitFrom, hg]
    split
    · split
      · exact congrArg (fun r : Lock × List PortId => (r.1, x.port :: r.2)) (ih v (k.grant x.port x.want lease))
      · rfl
      · rfl
    · rfl

/-- Only ports of the queue are granted. -/
theorem Lock.admit_ports (lease : Option Tick) (w : List Waiter) (k : Lock) :
    ∀ p ∈ (Lock.admitFrom lease w k).2, p ∈ w.map Waiter.port := by
  induction w generalizing k with
  | nil => simp [Lock.admitFrom]
  | cons x w ih =>
    simp only [Lock.admitFrom]
    intro p hp
    split at hp
    · split at hp
      · rcases List.mem_cons.1 hp with rfl | hp
        · simp
        · exact List.mem_cons_of_mem _ (ih _ p hp)
      · simp_all
      · simp_all
    · simp at hp

section reexamine

variable (s : State) (m : Moment) (l : LockId)

/-- Re-examination of a lock: its record is the one `Lock.admitFrom` leaves, the granted ports' commands end NONE, and nothing
else changes. -/
theorem State.reexamine_spec :
    (∀ i : LockId, (s.reexamine m l).lockAt i =
      if i = l then (Lock.admitFrom (s.leaseDeadline m (s.lockAt l).lease) (s.lockAt l).queue (s.lockAt l)).1 else s.lockAt i) ∧
    (∀ q : PortId, (s.reexamine m l).port q =
      if q ∈ (Lock.admitFrom (s.leaseDeadline m (s.lockAt l).lease) (s.lockAt l).queue (s.lockAt l)).2 then
        (s.port q).complete .none else s.port q) ∧
    (s.reexamine m l).pool = s.pool ∧ (s.reexamine m l).arbiter = s.arbiter ∧ (s.reexamine m l).scrubber = s.scrubber ∧
    (s.reexamine m l).rights = s.rights ∧ (s.reexamine m l).now = s.now ∧ (s.reexamine m l).pending = s.pending := by
  have h := State.completeAll_rest
    (s.setLock l (Lock.admitFrom (s.leaseDeadline m (s.lockAt l).lease) (s.lockAt l).queue (s.lockAt l)).1)
    (Lock.admitFrom (s.leaseDeadline m (s.lockAt l).lease) (s.lockAt l).queue (s.lockAt l)).2 .none
  refine ⟨fun i => ?_, fun q => ?_, h.2.1, h.2.2.1, h.2.2.2.1, h.2.2.2.2.1, h.2.2.2.2.2.1, h.2.2.2.2.2.2⟩
  · simp only [State.reexamine, State.lockAt_completeAll, State.lockAt_setLock]
  · simp only [State.reexamine, State.port_completeAll, State.port_setLock]

end reexamine

section reset

variable (s : State) (m : Moment) (p : PortId)

/-- A port reset at one lock touches that lock and the ports its re-examination grants. -/
theorem State.resetAtLock_spec (l : LockId) :
    (∀ i : LockId, i ≠ l → (State.resetAtLock m p s l).lockAt i = s.lockAt i) ∧
      (State.resetAtLock m p s l).pool = s.pool ∧ (State.resetAtLock m p s l).arbiter = s.arbiter ∧
      (State.resetAtLock m p s l).scrubber = s.scrubber ∧ (State.resetAtLock m p s l).rights = s.rights ∧
      (State.resetAtLock m p s l).now = s.now ∧ (State.resetAtLock m p s l).pending = s.pending := by
  simp only [State.resetAtLock]
  split
  · have h := State.reexamine_spec
      (s.setLock l ((if (s.lockAt l).holds p then (s.lockAt l).dropHold p else s.lockAt l).removeEntry p)) m l
    refine ⟨fun i hi => ?_, h.2.2.1, h.2.2.2.1, h.2.2.2.2.1, h.2.2.2.2.2.1, h.2.2.2.2.2.2.1, h.2.2.2.2.2.2.2⟩
    rw [h.1, if_neg hi, State.lockAt_setLock_ne _ _ hi]
  · exact ⟨fun _ _ => rfl, rfl, rfl, rfl, rfl, rfl, rfl⟩

/-- A port reset at the table leaves everything behind the table and the port units as it was. -/
theorem State.resetAtTable_rest :
    (s.resetAtTable m p).pool = s.pool ∧ (s.resetAtTable m p).arbiter = s.arbiter ∧
      (s.resetAtTable m p).scrubber = s.scrubber ∧ (s.resetAtTable m p).rights = s.rights ∧
      (s.resetAtTable m p).now = s.now ∧ (s.resetAtTable m p).pending = s.pending := by
  simp only [State.resetAtTable]
  generalize allLocks = ls
  induction ls generalizing s with
  | nil => exact ⟨rfl, rfl, rfl, rfl, rfl, rfl⟩
  | cons l ls ih =>
    have h := (State.resetAtLock_spec s m p l).2
    have h' := ih (State.resetAtLock m p s l)
    simp only [List.foldl_cons]
    exact ⟨h'.1.trans h.1, h'.2.1.trans h.2.1, h'.2.2.1.trans h.2.2.1, h'.2.2.2.1.trans h.2.2.2.1,
      h'.2.2.2.2.1.trans h.2.2.2.2.1, h'.2.2.2.2.2.trans h.2.2.2.2.2⟩

/-- The effect of a port reset leaves everything behind the table and the port units as it was. -/
theorem State.portResetEffect_rest :
    (s.portResetEffect m p).pool = s.pool ∧ (s.portResetEffect m p).arbiter = s.arbiter ∧
      (s.portResetEffect m p).scrubber = s.scrubber ∧ (s.portResetEffect m p).rights = s.rights ∧
      (s.portResetEffect m p).now = s.now ∧ (s.portResetEffect m p).pending = s.pending :=
  State.resetAtTable_rest (s.onPort p fun _ => Port.reset) m p

end reset

/-- The last steps of a request that may wait: refused WOULD_WAIT or DEADLOCK with nothing else changed, or its entry
placed. -/
theorem State.waitOrRefuse_cases (s : State) (m : Moment) (l : LockId) (p : PortId) (w : Wanted) (limit : Byte) :
    (limit = 0 ∧ s.waitOrRefuse m l p w limit = s.complete p .wouldWait) ∨
      (limit ≠ 0 ∧ s.wouldDeadlock p l = true ∧ s.waitOrRefuse m l p w limit = s.complete p .deadlock) ∨
      (limit ≠ 0 ∧ s.wouldDeadlock p l = false ∧ s.waitOrRefuse m l p w limit = s.placeEntry m l p w limit) := by
  by_cases h : limit = 0
  · exact .inl ⟨h, by simp [State.waitOrRefuse, h]⟩
  · cases hd : s.wouldDeadlock p l
    · exact .inr (.inr ⟨h, rfl, by simp only [State.waitOrRefuse, if_neg h, hd]; rfl⟩)
    · exact .inr (.inl ⟨h, rfl, by simp only [State.waitOrRefuse, if_neg h, hd]; rfl⟩)

end Sys2Proof.Machine
end

