-- ==== Sys2Proof/Laws/Arbitration.lean ====
section
/-! SUPPORT. What the arbiter's grants can do: one lemma for each operation. -/

namespace Sys2Proof.Machine

variable (s : State) (m : Moment)

/-- The choice falls on the scrubber only while its request waits, and on a port only while that port's does. -/
theorem Arbiter.choose_waits (a : Arbiter) :
    (a.choose = some .scrubber → a.scrubReq.isSome) ∧ ∀ p : PortId, a.choose = some (.port p) → a.waiting[p].isSome := by
  simp only [Arbiter.choose]
  split
  · rename_i h
    exact ⟨fun _ => h.1, fun p hp => by simp at hp⟩
  · split
    · rename_i p hp
      refine ⟨fun h => by simp at h, fun q hq => ?_⟩
      simp only [Option.some.injEq, Requester.port.injEq] at hq
      subst hq
      simpa using List.find?_some hp
    · split
      · rename_i h
        exact ⟨fun _ => h, fun p hp => by simp at hp⟩
      · exact ⟨fun h => by simp at h, fun p hp => by simp at hp⟩

/-- With a transfer in flight a grant does nothing. -/
theorem State.grantOne_busy (h : s.pool.transfer ≠ none) : s.grantOne m = s := by
  simp only [State.grantOne]
  split
  · rfl
  · rename_i hn; exact absurd hn h

/-- With no request waiting a grant does nothing. -/
theorem State.grantOne_none (h : s.arbiter.choose = none) : s.grantOne m = s := by
  simp only [State.grantOne, h]
  split <;> rfl

theorem State.grantAll_busy (h : s.pool.transfer ≠ none) : s.grantAll m = s := by
  simp only [State.grantAll, State.grantOne_busy s m h]

theorem State.grantAll_none (h : s.arbiter.choose = none) : s.grantAll m = s := by
  simp only [State.grantAll, State.grantOne_none s m h]

/-- What a refused grant leaves behind the table and the port units. -/
theorem State.refuseGrant_rest (p : PortId) :
    (s.refuseGrant m p).pool = s.pool ∧ (s.refuseGrant m p).arbiter = s.arbiter ∧
      (s.refuseGrant m p).scrubber = s.scrubber ∧ (s.refuseGrant m p).rights = s.rights ∧
      (s.refuseGrant m p).now = s.now ∧ (s.refuseGrant m p).pending = s.pending := by
  simp only [State.refuseGrant]
  split
  · exact State.portResetEffect_rest s m p
  · exact ⟨rfl, rfl, rfl, rfl, rfl, rfl⟩

/-- A grant to a port whose request waits: the arbiter's own part, and then the transfer or the refusal. -/
theorem State.grantPort_cases (p : PortId) (r : PoolRequest) (h : s.arbiter.waiting[p] = some r) :
    (s.accessAllowed p r = true ∧
      s.grantPort m p = ({ s with arbiter := s.arbiter.grantedPort p } : State).beginTransfer p r) ∨
    (s.accessAllowed p r = false ∧
      s.grantPort m p = ({ s with arbiter := s.arbiter.grantedPort p } : State).refuseGrant m p) := by
  have e : ({ s with arbiter := s.arbiter.grantedPort p } : State).accessAllowed p r = s.accessAllowed p r := rfl
  simp only [State.grantPort, h, e]
  cases s.accessAllowed p r
  · exact .inr ⟨rfl, rfl⟩
  · exact .inl ⟨rfl, rfl⟩

/-- A grant changes of the pool the transfer in flight alone, and neither rights, tick number nor queue. -/
theorem State.grantOne_rest :
    (s.grantOne m).pool = { s.pool with transfer := (s.grantOne m).pool.transfer } ∧ (s.grantOne m).rights = s.rights ∧
      (s.grantOne m).now = s.now ∧ (s.grantOne m).pending = s.pending := by
  simp only [State.grantOne]
  split
  · exact ⟨rfl, rfl, rfl, rfl⟩
  · rename_i hn
    split
    · exact ⟨rfl, rfl, rfl, rfl⟩
    · rename_i p hp
      obtain ⟨r, hr⟩ := Option.isSome_iff_exists.1 (s.arbiter.choose_waits.2 p hp)
      rcases s.grantPort_cases m p r hr with ⟨-, h⟩ | ⟨-, h⟩ <;> rw [h]
      · exact ⟨rfl, rfl, rfl, rfl⟩
      · have e := State.refuseGrant_rest ({ s with arbiter := s.arbiter.grantedPort p } : State) m p
        exact ⟨by rw [e.1], e.2.2.2.1, e.2.2.2.2.1, e.2.2.2.2.2⟩
    · simp only [State.grantScrub]
      split
      · exact ⟨rfl, rfl, rfl, rfl⟩
      · split <;> exact ⟨rfl, rfl, rfl, rfl⟩

theorem State.grantAll_rest :
    (s.grantAll m).pool = { s.pool with transfer := (s.grantAll m).pool.transfer } ∧ (s.grantAll m).rights = s.rights ∧
      (s.grantAll m).now = s.now ∧ (s.grantAll m).pending = s.pending := by
  have trans : ∀ a b c : State, (b.pool = { a.pool with transfer := b.pool.transfer } ∧ b.rights = a.rights ∧
      b.now = a.now ∧ b.pending = a.pending) → (c.pool = { b.pool with transfer := c.pool.transfer } ∧
      c.rights = b.rights ∧ c.now = b.now ∧ c.pending = b.pending) →
      (c.pool = { a.pool with transfer := c.pool.transfer } ∧ c.rights = a.rights ∧ c.now = a.now ∧
        c.pending = a.pending) := by
    rintro a b c ⟨h1, h2, h3, h4⟩ ⟨g1, g2, g3, g4⟩
    refine ⟨?_, g2.trans h2, g3.trans h3, g4.trans h4⟩
    rw [g1]; rw [h1]
  have r := fun t : State => t.grantOne_rest m
  exact trans s _ _ (trans s _ _ (trans s _ _ (trans s _ _ (r s) (r _)) (r _)) (r _)) (r _)

/-- The number of requests that wait. -/
def Arbiter.waitCount (a : Arbiter) : Nat :=
  a.waiting[0].isSome.toNat + a.waiting[1].isSome.toNat + a.waiting[2].isSome.toNat + a.waiting[3].isSome.toNat +
    a.scrubReq.isSome.toNat

theorem Arbiter.waitCount_le (a : Arbiter) : a.waitCount ≤ 5 := by
  have h : ∀ b : Bool, b.toNat ≤ 1 := by decide
  have h0 := h a.waiting[0].isSome
  have h1 := h a.waiting[1].isSome
  have h2 := h a.waiting[2].isSome
  have h3 := h a.waiting[3].isSome
  have h4 := h a.scrubReq.isSome
  simp only [Arbiter.waitCount]; omega

theorem Arbiter.waitCount_grantedPort (a : Arbiter) (p : PortId) (h : a.waiting[p].isSome) :
    (a.grantedPort p).waitCount + 1 = a.waitCount := by
  fin_cases p <;> simp at h <;> simp [Arbiter.waitCount, Arbiter.grantedPort, h] <;> omega

theorem Arbiter.waitCount_withdrawScrub (a : Arbiter) (h : a.scrubReq.isSome) :
    a.withdrawScrub.waitCount + 1 = a.waitCount := by
  simp [Arbiter.waitCount, Arbiter.withdrawScrub, h]

/-- One grant does nothing, or takes one request away. -/
theorem State.grantOne_count (s : State) (m : Moment) :
    s.grantOne m = s ∨ (s.grantOne m).arbiter.waitCount + 1 = s.arbiter.waitCount := by
  simp only [State.grantOne]
  split
  · exact .inl rfl
  · split
    · exact .inl rfl
    · rename_i p hp
      have hw := s.arbiter.choose_waits.2 p hp
      obtain ⟨r, hr⟩ := Option.isSome_iff_exists.1 hw
      refine .inr ?_
      rcases s.grantPort_cases m p r hr with ⟨-, h⟩ | ⟨-, h⟩ <;> rw [h]
      · exact Arbiter.waitCount_grantedPort _ _ hw
      · rw [(State.refuseGrant_rest _ m p).2.1]
        exact Arbiter.waitCount_grantedPort _ _ hw
    · rename_i hp
      have hw := s.arbiter.choose_waits.1 hp
      obtain ⟨b, hb⟩ := Option.isSome_iff_exists.1 hw
      refine .inr ?_
      simp only [State.grantScrub, hb]
      split <;> exact Arbiter.waitCount_withdrawScrub _ hw

/-- The grants of an event leave nothing for one grant more. -/
theorem State.iterate_grantOne (m : Moment) (n : Nat) :
    ∀ s : State, s.arbiter.waitCount ≤ n → (State.grantOne · m)^[n + 1] s = (State.grantOne · m)^[n] s := by
  induction n with
  | zero =>
    intro s h
    rcases s.grantOne_count m with e | e
    · exact e
    · omega
  | succ n ih =>
    intro s h
    rcases s.grantOne_count m with e | e
    · rw [Function.iterate_fixed e, Function.iterate_fixed e]
    · rw [Function.iterate_succ_apply, Function.iterate_succ_apply (n := n)]
      exact ih _ (by show (s.grantOne m).arbiter.waitCount ≤ n; omega)

/-- The grants of an event are the first grant, followed by the grants that are then possible (R81). -/
theorem State.grantAll_step (s : State) (m : Moment) : s.grantAll m = (s.grantOne m).grantAll m :=
  (State.iterate_grantOne m 5 s s.arbiter.waitCount_le).symm
/-- The delivery of a result changes the port units and the lock table alone. -/
theorem State.deliver_rest (p : PortId) (t : Transfer) :
    (s.deliver m p t).pool = s.pool ∧ (s.deliver m p t).arbiter = s.arbiter ∧ (s.deliver m p t).scrubber = s.scrubber ∧
      (s.deliver m p t).rights = s.rights ∧ (s.deliver m p t).now = s.now ∧ (s.deliver m p t).pending = s.pending := by
  simp only [State.deliver]
  split
  · split
    · exact State.portResetEffect_rest s m p
    · exact ⟨rfl, rfl, rfl, rfl, rfl, rfl⟩
  · exact ⟨rfl, rfl, rfl, rfl, rfl, rfl⟩

/-- The end of a port's transfer: its effects at the pool, the result at the port, and then the grants (R87). -/
theorem State.endOf_port (x : Transfer) (p : PortId) (h : s.pool.transfer = some x) (hp : x.requester = .port p) :
    s.endOf x.kind =
      (({ s with pool := { s.pool.endTransfer x with transfer := none } } : State).deliver .betweenTicks p x).grantAll
        .betweenTicks := by
  simp only [State.endOf, h, hp, if_true]

end Sys2Proof.Machine
end

