-- ==== Sys2Proof/Laws/Memory.lean ====
section
/-! SUPPORT. The laws of the pool's memory: what each operation leaves at each address, and that each keeps the canonical
form. -/

namespace Sys2Proof.Machine

variable (m : Memory) (a x : Nat)

@[simp] theorem Memory.byteAt?_nil : Memory.byteAt? [] x = none := rfl

theorem Memory.byteAt?_append (m₁ m₂ : Memory) :
    Memory.byteAt? (m₁ ++ m₂) x = (Memory.byteAt? m₁ x).or (Memory.byteAt? m₂ x) := by
  induction m₁ with
  | nil => rfl
  | cons c m₁ ih =>
    simp only [List.cons_append, Memory.byteAt?]
    split <;> simp_all

theorem Memory.byteAt?_filter (f : Nat → Bool) :
    Memory.byteAt? (m.filter fun c => f c.1) x = if f x then Memory.byteAt? m x else none := by
  induction m with
  | nil => simp
  | cons c m ih =>
    by_cases h : c.1 = x
    · subst h; by_cases hf : f c.1 <;> simp_all [Memory.byteAt?]
    · by_cases hf : f c.1 <;> simp_all [Memory.byteAt?]

theorem Memory.byteAt?_cells (vs : List Byte) :
    Memory.byteAt? (Memory.cells a vs) x = if a ≤ x then vs[x - a]? else none := by
  induction vs generalizing a with
  | nil => simp [Memory.cells]
  | cons v vs ih =>
    simp only [Memory.cells, Memory.byteAt?, ih]
    rcases Nat.lt_trichotomy a x with h | h | h
    · rw [if_neg (by omega), if_pos (by omega), if_pos (by omega), show x - a = (x - (a + 1)) + 1 by omega]
      rfl
    · subst h; simp
    · rw [if_neg (by omega), if_neg (by omega), if_neg (by omega)]

/-- What storing a run of bytes leaves at each address: the bytes stored inside, what was there outside. -/
theorem Memory.byteAt?_writeRun (vs : List Byte) :
    Memory.byteAt? (Memory.writeRun m a vs) x =
      if a ≤ x ∧ x < a + vs.length then vs[x - a]? else Memory.byteAt? m x := by
  have h₁ := Memory.byteAt?_filter m x fun y => decide (y < a)
  have h₂ := Memory.byteAt?_filter m x fun y => decide (a + vs.length ≤ y)
  rw [Memory.writeRun, Memory.byteAt?_append, Memory.byteAt?_append, h₁, h₂, Memory.byteAt?_cells]
  by_cases hx : a ≤ x
  · by_cases hy : x < a + vs.length
    · have : x - a < vs.length := by omega
      simp [hx, hy, this, Nat.not_lt.2 hx]
    · have : vs.length ≤ x - a := by omega
      simp [hx, hy, Nat.not_lt.2 hx, Nat.le_of_not_lt hy, this]
  · simp only [Nat.not_le] at hx
    have h' : ¬ a + vs.length ≤ x := by omega
    simp [hx, Nat.not_le.2 hx, h']

/-- What forgetting a run of bytes leaves at each address. -/
theorem Memory.byteAt?_eraseRun (n : Nat) :
    Memory.byteAt? (Memory.eraseRun m a n) x = if a ≤ x ∧ x < a + n then none else Memory.byteAt? m x := by
  have h := Memory.byteAt?_filter m x fun y => decide (y < a) || decide (a + n ≤ y)
  rw [Memory.eraseRun, h]
  by_cases hx : a ≤ x <;> by_cases hy : x < a + n <;> simp_all

/-- What changing a bit leaves at each address. -/
theorem Memory.byteAt?_flipBit (k : Nat) :
    Memory.byteAt? (Memory.flipBit m a k) x =
      if x = a then (Memory.byteAt? m x).map (· ^^^ (1#8 <<< k)) else Memory.byteAt? m x := by
  induction m with
  | nil => simp [Memory.flipBit]
  | cons c m ih =>
    simp only [Memory.flipBit, List.map_cons, Memory.byteAt?] at ih ⊢
    by_cases h : c.1 = a <;> by_cases hx : c.1 = x
    · simp_all
    · have hx' : x ≠ a := fun e => hx (h.trans e.symm)
      simp_all
    · simp_all
    · simp_all

/-! ## The canonical form -/

theorem Memory.wf_nil : Memory.wf [] := ⟨.nil, fun _ hc => nomatch hc⟩

theorem Memory.cells_bounds (vs : List Byte) : ∀ c ∈ Memory.cells a vs, a ≤ c.1 ∧ c.1 < a + vs.length := by
  induction vs generalizing a with
  | nil => simp [Memory.cells]
  | cons v vs ih =>
    intro c hc
    simp only [Memory.cells, List.mem_cons] at hc
    rcases hc with rfl | hc
    · simp
    · have := ih (a + 1) c hc; simp; omega

theorem Memory.cells_rising (vs : List Byte) : (Memory.cells a vs).Pairwise (fun c d => c.1 < d.1) := by
  induction vs generalizing a with
  | nil => simp [Memory.cells]
  | cons v vs ih =>
    refine List.pairwise_cons.2 ⟨fun c hc => ?_, ih (a + 1)⟩
    have := Memory.cells_bounds (a + 1) vs c hc
    simp only; omega

theorem Memory.wf_writeRun (vs : List Byte) (h : m.wf) (ha : a + vs.length ≤ 512 * Config.blockStorage) :
    (Memory.writeRun m a vs).wf := by
  refine ⟨?_, ?_⟩
  · simp only [Memory.writeRun, List.pairwise_append]
    refine ⟨h.1.sublist List.filter_sublist,
      ⟨Memory.cells_rising a vs, h.1.sublist List.filter_sublist, fun c hc d hd => ?_⟩, fun c hc d hd => ?_⟩
    · have := Memory.cells_bounds a vs c hc
      simp only [List.mem_filter, decide_eq_true_eq] at hd
      omega
    · simp only [List.mem_filter, decide_eq_true_eq, List.mem_append] at hc hd
      rcases hd with hd | hd
      · have := Memory.cells_bounds a vs d hd; omega
      · omega
  · intro c hc
    simp only [Memory.writeRun, List.mem_append, List.mem_filter] at hc
    rcases hc with hc | hc | hc
    · exact h.2 c hc.1
    · have := Memory.cells_bounds a vs c hc; omega
    · exact h.2 c hc.1

theorem Memory.wf_eraseRun (n : Nat) (h : m.wf) : (Memory.eraseRun m a n).wf :=
  ⟨h.1.sublist List.filter_sublist, fun c hc => h.2 c (List.mem_filter.1 hc).1⟩

theorem Memory.wf_flipBit (k : Nat) (h : m.wf) : (Memory.flipBit m a k).wf := by
  have e : ∀ c : Host.Cell, (if c.1 = a then (c.1, c.2 ^^^ (1#8 <<< k)) else c).1 = c.1 := fun c => by split <;> rfl
  refine ⟨List.pairwise_map.2 (h.1.imp fun hcd => by simpa only [e] using hcd), fun c hc => ?_⟩
  obtain ⟨d, hd, rfl⟩ := List.mem_map.1 hc
  rw [e]
  exact h.2 d hd

/-- The memory after power-on has the canonical form. -/
theorem Memory.wf_reset : State.reset.pool.mem.wf := Memory.wf_nil

end Sys2Proof.Machine
end

