-- ==== Sys2Proof/Laws/PerInstr.lean ====
section
/-! SUPPORT. The family CodeNamesCommand, one lemma per constructor of `Instr`: the byte a COMMAND write writes names exactly the
command the term is (R95, R165). -/

namespace Sys2Proof.Laws.CodeNamesCommand

/-- What a well-formed term writes to COMMAND names the command the term is. -/
def Statement (i : Instr) : Prop := i.wellFormed = true → ∀ v : Byte, i.codeWritten = some v → commandOfCode v = i.command?

/-- A code names its command. -/
theorem of_code (c : Command) : commandOfCode c.code = some c := by cases c <;> rfl

theorem readBlocks (p : PortId) : Statement (.readBlocks p) := fun _ _ h => by cases h; exact of_code _
theorem writeBlocks (p : PortId) : Statement (.writeBlocks p) := fun _ _ h => by cases h; exact of_code _
theorem copyBlocks (p : PortId) : Statement (.copyBlocks p) := fun _ _ h => by cases h; exact of_code _
theorem zeroBlocks (p : PortId) : Statement (.zeroBlocks p) := fun _ _ h => by cases h; exact of_code _
theorem verifyBlocks (p : PortId) : Statement (.verifyBlocks p) := fun _ _ h => by cases h; exact of_code _
theorem badCommand (p : PortId) (code : Byte) : Statement (.badCommand p code) := fun _ _ h => by cases h; rfl
theorem acquireShared (p : PortId) (h : Handing) : Statement (.acquireShared p h) := fun _ _ h => by cases h; exact of_code _
theorem acquireExclusive (p : PortId) (h : Handing) : Statement (.acquireExclusive p h) := fun _ _ h => by cases h; exact of_code _
theorem upgrade (p : PortId) (h : Handing) : Statement (.upgrade p h) := fun _ _ h => by cases h; exact of_code _
theorem downgrade (p : PortId) (h : Handing) : Statement (.downgrade p h) := fun _ _ h => by cases h; exact of_code _
theorem release (p : PortId) (h : Handing) : Statement (.release p h) := fun _ _ h => by cases h; exact of_code _
theorem renew (p : PortId) (h : Handing) : Statement (.renew p h) := fun _ _ h => by cases h; exact of_code _
theorem queryLock (p : PortId) (h : Handing) : Statement (.queryLock p h) := fun _ _ h => by cases h; exact of_code _
theorem defineLock (p : PortId) (h : Handing) : Statement (.defineLock p h) := fun _ _ h => by cases h; exact of_code _
theorem undefineLock (p : PortId) (h : Handing) : Statement (.undefineLock p h) := fun _ _ h => by cases h; exact of_code _
theorem breakLock (p : PortId) (h : Handing) : Statement (.breakLock p h) := fun _ _ h => by cases h; exact of_code _
theorem setRights (p : PortId) (h : Handing) : Statement (.setRights p h) := fun _ _ h => by cases h; exact of_code _
theorem setArbiter (p : PortId) (h : Handing) : Statement (.setArbiter p h) := fun _ _ h => by cases h; exact of_code _
theorem setScrub (p : PortId) (h : Handing) : Statement (.setScrub p h) := fun _ _ h => by cases h; exact of_code _
theorem readFaultList (p : PortId) : Statement (.readFaultList p) := fun _ _ h => by cases h; exact of_code _
theorem postNote (p : PortId) (h : Handing) : Statement (.postNote p h) := fun _ _ h => by cases h; exact of_code _
theorem identify (p : PortId) : Statement (.identify p) := fun _ _ h => by cases h; exact of_code _
theorem abort (p : PortId) (v : Byte) : Statement (.abort p v) := fun _ _ h => nomatch h
theorem portReset (p : PortId) (v : Byte) : Statement (.portReset p v) := fun _ _ h => nomatch h
theorem dataRead (p : PortId) : Statement (.dataRead p) := fun _ _ h => nomatch h
theorem dataWrite (p : PortId) (v : Byte) : Statement (.dataWrite p v) := fun _ _ h => nomatch h
theorem statusRead (p : PortId) : Statement (.statusRead p) := fun _ _ h => nomatch h
theorem notePop (p : PortId) (v : Byte) : Statement (.notePop p v) := fun _ _ h => nomatch h
theorem lostWrite (p : PortId) (v : Byte) : Statement (.lostWrite p v) := fun _ _ h => nomatch h
theorem irqenWrite (p : PortId) (v : Byte) : Statement (.irqenWrite p v) := fun _ _ h => nomatch h
theorem registerWrite (p : PortId) (offset : Fin 16) (v : Byte) : Statement (.registerWrite p offset v) := fun _ _ h => nomatch h
theorem powerOn : Statement .powerOn := fun _ _ h => nomatch h
theorem deviceReset : Statement .deviceReset := fun _ _ h => nomatch h
theorem tick : Statement .tick := fun _ _ h => nomatch h
theorem leaseExpiry (l : LockId) (p : PortId) : Statement (.leaseExpiry l p) := fun _ _ h => nomatch h
theorem waitTimeout (l : LockId) (p : PortId) : Statement (.waitTimeout l p) := fun _ _ h => nomatch h
theorem scrubRequest : Statement .scrubRequest := fun _ _ h => nomatch h
theorem poolGrant : Statement .poolGrant := fun _ _ h => nomatch h
theorem loadEnd : Statement .loadEnd := fun _ _ h => nomatch h
theorem storeEnd : Statement .storeEnd := fun _ _ h => nomatch h
theorem zeroEnd : Statement .zeroEnd := fun _ _ h => nomatch h
theorem copyEnd : Statement .copyEnd := fun _ _ h => nomatch h
theorem verifyEnd : Statement .verifyEnd := fun _ _ h => nomatch h
theorem scrubEnd : Statement .scrubEnd := fun _ _ h => nomatch h
theorem lockEntryWithdrawal (p : PortId) : Statement (.lockEntryWithdrawal p) := fun _ _ h => nomatch h
theorem poolRequestWithdrawal (r : Requester) : Statement (.poolRequestWithdrawal r) := fun _ _ h => nomatch h
theorem tablePortReset (p : PortId) : Statement (.tablePortReset p) := fun _ _ h => nomatch h
theorem storedBitDisturbance (b : BlockNo) (g : Fin 16) (bit : Fin 72) : Statement (.storedBitDisturbance b g bit) := fun _ _ h => nomatch h
theorem handedRequestArrival (p : PortId) : Statement (.handedRequestArrival p) := fun _ _ h => nomatch h
theorem handedRequestWithdrawal (p : PortId) : Statement (.handedRequestWithdrawal p) := fun _ _ h => nomatch h
theorem poolRequestArrival (p : PortId) : Statement (.poolRequestArrival p) := fun _ _ h => nomatch h

end Sys2Proof.Laws.CodeNamesCommand
end

