-- ==== Sys2Proof/Laws/PoolStore.lean ====
section
/-! SUPPORT. What the pool controller's operations can do: one lemma for each. -/

namespace Sys2Proof.Machine

@[simp] theorem checkBytes_length (data : Bytes) : (checkBytes data).length = 16 := by simp [checkBytes]

theorem blockBytes_length (data : Bytes) : (data.toList ++ checkBytes data).length = Config.blockStorage := by
  simp [Config.blockStorage]

/-- Two stored bytes of blocks have one address only if they are one byte. -/
theorem storeAddr_inj {b c : BlockNo} {i j : Nat} (hi : i < 144) (hj : j < 144) (h : storeAddr b i = storeAddr c j) :
    b = c ∧ i = j := by
  simp only [storeAddr, Config.blockStorage] at h
  have hb : b.toNat = c.toNat := by omega
  exact ⟨BitVec.eq_of_toNat_eq hb, by omega⟩

theorem storeAddr_lt (b : BlockNo) {j : Nat} (hj : j < 144) : storeAddr b j < 512 * Config.blockStorage := by
  have := b.isLt
  simp only [storeAddr, Config.blockStorage]; omega

section writeBlock

variable (P : Pool) (b : BlockNo) (data : Bytes)

theorem Pool.stateOf_set (v : BlockState) (c : BlockNo) :
    ({ P with map := P.map.set b.toNat v } : Pool).stateOf c = if c = b then v else P.stateOf c := by
  by_cases h : c = b
  · subst h; simp [Pool.stateOf]
  · have h' : b.toNat ≠ c.toNat := fun e => h (BitVec.eq_of_toNat_eq e.symm)
    simp [Pool.stateOf, h, h']

/-- A block write makes its block GOOD and no other. -/
@[simp] theorem Pool.stateOf_writeBlock (c : BlockNo) :
    (P.writeBlock b data).stateOf c = if c = b then .good else P.stateOf c := P.stateOf_set b .good c

/-- A block write stores its 144 bytes and leaves every other byte. -/
theorem Pool.byteAt?_writeBlock (a : Nat) :
    Memory.byteAt? (P.writeBlock b data).mem a =
      if storeAddr b 0 ≤ a ∧ a < storeAddr b 0 + Config.blockStorage then (data.toList ++ checkBytes data)[a - storeAddr b 0]?
      else Memory.byteAt? P.mem a := by
  rw [Pool.writeBlock, Memory.byteAt?_writeRun, blockBytes_length]

theorem Pool.wf_writeBlock (h : P.mem.wf) : (P.writeBlock b data).mem.wf := by
  refine Memory.wf_writeRun _ _ _ h ?_
  have := b.isLt
  simp only [blockBytes_length, storeAddr, Config.blockStorage]; omega

@[simp] theorem Pool.writeBlock_faults : (P.writeBlock b data).faults = P.faults.filter fun c => c ≠ b := rfl
@[simp] theorem Pool.writeBlock_overflow : (P.writeBlock b data).overflow = P.overflow := rfl
@[simp] theorem Pool.writeBlock_corrected : (P.writeBlock b data).corrected = P.corrected := rfl
@[simp] theorem Pool.writeBlock_transfer : (P.writeBlock b data).transfer = P.transfer := rfl

end writeBlock

/-- The corrected-group count rises and stays at 65,535 (R14). -/
theorem Pool.countCorrected_toNat (P : Pool) (n : Nat) :
    (P.countCorrected n).corrected.toNat = min 65535 (P.corrected.toNat + n) := by
  have := P.corrected.isLt
  simp only [Pool.countCorrected]
  by_cases h : P.corrected.toNat + n ≥ 65535
  · rw [if_pos h]; show 65535 = _; omega
  · rw [if_neg h, BitVec.toNat_add, BitVec.toNat_ofNat]; omega

/-- A group of a check byte above eight data bytes agrees exactly if the check byte is the one of those bytes. -/
theorem groupAgrees_append (c : Byte) (w : BitVec 64) : groupAgrees (c ++ w) = decide (c = Config.checkByte w) := by
  have h₁ : (c ++ w).extractLsb' 64 8 = c := by
    ext i hi
    rw [BitVec.getElem_extractLsb']
    exact (BitVec.getLsbD_append (x := c) (y := w) (i := 64 + i)).trans (by simp [hi])
  have h₂ : (c ++ w).extractLsb' 0 64 = w := by
    ext i hi
    rw [BitVec.getElem_extractLsb', Nat.zero_add]
    exact (BitVec.getLsbD_append (x := c) (y := w) (i := i)).trans (by simp [hi])
  unfold groupAgrees
  generalize c ++ w = v at *
  subst h₁ h₂
  rfl

/-- The class of a group with three wrong bits or more: clean exactly if data and check byte agree, and correctable only with
an identified bit whose change makes them agree. -/
theorem Pool.groupClass_many (P : Pool) (b : BlockNo) (g : Nat) (h : 3 ≤ (P.wrongBits b g).length) :
    (P.groupClass b g = .clean ↔ groupAgrees (P.storedGroup b g) = true) ∧
      (P.groupClass b g = .correctable → ∃ k : Fin 72, P.identifiedBit b g = k.val ∧
        groupAgrees (P.storedGroup b g ^^^ (1#72 <<< k.val)) = true) := by
  simp only [Pool.groupClass, Pool.identifiedBit]
  rcases e : P.wrongBits b g with _ | ⟨x, _ | ⟨y, _ | ⟨z, l⟩⟩⟩ <;> simp only [e, List.length_cons, List.length_nil] at h
  · omega
  · omega
  · omega
  · by_cases ha : groupAgrees (P.storedGroup b g) = true
    · simp [ha]
    · cases hk : attributedBit (P.storedGroup b g) with
      | none => simp [ha]
      | some k => exact ⟨by simp [ha], fun _ => ⟨k, rfl, (Option.filter_eq_some_iff.1 hk).2⟩⟩

section offer

variable (P : Pool) (b : BlockNo)

/-- Offering a block to the fault list: it is there already, or it is appended, or the list is full and the overflow mark is
set. -/
theorem Pool.offer_cases :
    (b ∈ P.faults ∧ P.offer b = P) ∨
      (b ∉ P.faults ∧ P.faults.length < 16 ∧ P.offer b = { P with faults := P.faults ++ [b] }) ∨
      (b ∉ P.faults ∧ 16 ≤ P.faults.length ∧ P.offer b = { P with overflow := true }) := by
  by_cases h : b ∈ P.faults
  · exact .inl ⟨h, by simp [Pool.offer, h]⟩
  · by_cases hl : P.faults.length < 16
    · exact .inr (.inl ⟨h, hl, by simp [Pool.offer, h, Config.faultListSize, hl]⟩)
    · exact .inr (.inr ⟨h, Nat.le_of_not_lt hl, by simp [Pool.offer, h, Config.faultListSize, hl]⟩)

@[simp] theorem Pool.offer_map : (P.offer b).map = P.map := by
  rcases P.offer_cases b with ⟨-, h⟩ | ⟨-, -, h⟩ | ⟨-, -, h⟩ <;> rw [h]

@[simp] theorem Pool.offer_mem : (P.offer b).mem = P.mem := by
  rcases P.offer_cases b with ⟨-, h⟩ | ⟨-, -, h⟩ | ⟨-, -, h⟩ <;> rw [h]

@[simp] theorem Pool.offer_wrong : (P.offer b).wrong = P.wrong := by
  rcases P.offer_cases b with ⟨-, h⟩ | ⟨-, -, h⟩ | ⟨-, -, h⟩ <;> rw [h]

@[simp] theorem Pool.offer_corrected : (P.offer b).corrected = P.corrected := by
  rcases P.offer_cases b with ⟨-, h⟩ | ⟨-, -, h⟩ | ⟨-, -, h⟩ <;> rw [h]

@[simp] theorem Pool.offer_transfer : (P.offer b).transfer = P.transfer := by
  rcases P.offer_cases b with ⟨-, h⟩ | ⟨-, -, h⟩ | ⟨-, -, h⟩ <;> rw [h]

/-- Poisoning a block changes its state and no other, and keeps the stored bytes. -/
theorem Pool.stateOf_poison (c : BlockNo) : (P.poison b).stateOf c = if c = b then .poisoned else P.stateOf c := by
  have h : (P.poison b).map = P.map.set b.toNat .poisoned := Pool.offer_map _ b
  rw [← P.stateOf_set b .poisoned c]
  simp only [Pool.stateOf, h]

@[simp] theorem Pool.poison_mem : (P.poison b).mem = P.mem := Pool.offer_mem _ b

/-- A cut block is POISONED with unknown bytes; every other block and byte is kept. -/
theorem Pool.stateOf_poisonCut (c : BlockNo) : (P.poisonCut b).stateOf c = if c = b then .poisoned else P.stateOf c :=
  Pool.stateOf_poison _ b c

theorem Pool.byteAt?_poisonCut (a : Nat) :
    Memory.byteAt? (P.poisonCut b).mem a =
      if storeAddr b 0 ≤ a ∧ a < storeAddr b 0 + Config.blockStorage then none else Memory.byteAt? P.mem a := by
  rw [Pool.poisonCut, Pool.poison_mem, Memory.byteAt?_eraseRun]

end offer

/-- The effects of a transfer's end and of a disturbance leave the transfer in flight to their caller. -/
theorem Pool.endTransfer_transfer (P : Pool) (t : Transfer) : (P.endTransfer t).transfer = P.transfer := by
  have h : ∀ Q : Pool, (Q.endRead t).transfer = Q.transfer := by
    intro Q
    simp only [Pool.endRead]
    split <;> first | rfl | exact Pool.offer_transfer _ _
  simp only [Pool.endTransfer, Pool.endCopy]
  split
  · exact h P
  · exact h P
  · exact h P
  · rfl
  · rfl
  · split
    · exact h P
    · exact h P

/-- A disturbance changes the stored bytes and the record of wrong bits alone. -/
theorem Pool.disturb_fields (P : Pool) (b : BlockNo) (g : Fin 16) (k : Fin 72) :
    P.disturb b g k = { P with mem := (P.disturb b g k).mem, wrong := (P.disturb b g k).wrong } := by
  simp only [Pool.disturb]
  split <;> rfl

theorem Pool.wf_disturb (P : Pool) (b : BlockNo) (g : Fin 16) (k : Fin 72) (h : P.mem.wf) : (P.disturb b g k).mem.wf := by
  simp only [Pool.disturb]
  split
  · exact h
  · exact Memory.wf_flipBit _ _ _ h

theorem Pool.wf_poisonCut (P : Pool) (b : BlockNo) (h : P.mem.wf) : (P.poisonCut b).mem.wf := by
  rw [Pool.poisonCut, Pool.poison_mem]
  exact Memory.wf_eraseRun _ _ _ h

end Sys2Proof.Machine
end

