-- ==== Sys2Proof/Laws/PortUnit.lean ====
section
/-! SUPPORT. What a write of COMMAND can do: the cases of acceptance, and the requests handed to another block. -/

namespace Sys2Proof.Machine

variable (s : State) (p : PortId)

/-- Acceptance looks at the rights and at the arguments, which what it clears does not change. -/
theorem State.accept_checks (c : Command) :
    (s.onPort p Port.accept).hasRight p c = s.hasRight p c ∧
      ((s.onPort p Port.accept).port p).argumentsInRange c = (s.port p).argumentsInRange c ∧
      ((s.onPort p Port.accept).port p).handedRequest c = (s.port p).handedRequest c := by
  refine ⟨rfl, ?_, ?_⟩ <;> rw [State.port_onPort_self] <;> cases c <;> rfl

/-- The cases of acceptance: three refusals, in their order, or the beginning of the command. -/
theorem State.acceptCommand_cases (c : Option Command) :
    (c = none ∧ s.acceptCommand p c = (s.onPort p Port.accept).complete p .badCommand) ∨
    (∃ d, c = some d ∧ s.hasRight p d = false ∧ s.acceptCommand p c = (s.onPort p Port.accept).complete p .noRight) ∨
    (∃ d, c = some d ∧ s.hasRight p d = true ∧ (s.port p).argumentsInRange d = false ∧
      s.acceptCommand p c = (s.onPort p Port.accept).complete p .badParam) ∨
    (∃ d, c = some d ∧ s.hasRight p d = true ∧ (s.port p).argumentsInRange d = true ∧
      s.acceptCommand p c = (s.onPort p Port.accept).beginCommand p d) := by
  cases c with
  | none => exact .inl ⟨rfl, rfl⟩
  | some d =>
    have h := s.accept_checks p d
    simp only [State.acceptCommand, h.1, h.2.1]
    cases hr : s.hasRight p d
    · exact .inr (.inl ⟨d, rfl, hr, rfl⟩)
    · cases ha : (s.port p).argumentsInRange d
      · exact .inr (.inr (.inl ⟨d, rfl, hr, ha, rfl⟩))
      · exact .inr (.inr (.inr ⟨d, rfl, hr, ha, rfl⟩))

/-- A request reaches its block only while it is on its way. -/
theorem State.arriveHanded_none (h : ∀ r, (s.port p).outgoing ≠ some (.handed r)) : s.arriveHanded p = s := by
  simp [State.arriveHanded]

/-- A command handed to another block begins with its request on its way. -/
theorem State.beginCommand_handed (c : Command) (r : HandedRequest) (h : (s.port p).handedRequest c = some r) :
    s.beginCommand p c = s.onPort p fun q =>
      { q with state := .exec, running := some ⟨c, .ascending⟩, outgoing := some (.handed r) } := by
  cases c <;> simp only [Port.handedRequest, reduceCtorEq] at h <;>
    simp only [State.beginCommand, State.onPort, Port.handedRequest, h, Option.map_some]

end Sys2Proof.Machine
end

