-- ==== Sys2Proof/Tests/Slice0.lean ====
section
/-! SUPPORT. Tests: the checks of WellFormed, one step of each command on a small state, and for each statement with hypotheses
a state that meets them. Expected results are from the rules of spec/ named at each test. -/

namespace Sys2Proof.Tests

open Sys2Proof.Machine

-- one theorem after the other: each kernel evaluation would otherwise hold a thread of its own while it waits
set_option Elab.async false

/-! ## Well-formed terms -/

theorem test_refuses_badCommand_of_a_command_code : (Instr.badCommand 0 0x10).wellFormed = false := by decide +kernel
theorem test_admits_badCommand : (Instr.badCommand 0 0x15).wellFormed = true := by decide +kernel
theorem test_refuses_abort_without_ABORT : (Instr.abort 0 0).wellFormed = false := by decide +kernel
theorem test_refuses_abort_with_PRESET : (Instr.abort 0 3).wellFormed = false := by decide +kernel
theorem test_admits_abort : (Instr.abort 0 0xFD).wellFormed = true := by decide +kernel
theorem test_refuses_portReset_without_PRESET : (Instr.portReset 0 1).wellFormed = false := by decide +kernel
theorem test_admits_portReset_with_ABORT : (Instr.portReset 0 3).wellFormed = true := by decide +kernel
theorem test_refuses_registerWrite_at_COMMAND : (Instr.registerWrite 0 8 0).wellFormed = false := by decide +kernel
theorem test_refuses_registerWrite_of_CONTROL_with_ABORT : (Instr.registerWrite 0 9 1).wellFormed = false := by decide +kernel
theorem test_admits_registerWrite_of_LOCK : (Instr.registerWrite 0 7 0xFF).wellFormed = true := by decide +kernel
theorem test_code_of_VERIFY (p : PortId) : (Instr.verifyBlocks p).codeWritten = some 0x14 := by rfl
theorem test_no_word_spells_a_command : decodeTableWord 8 0x10 = none := by rfl

/-! ## Small states -/

/-- The state after a command. -/
def after (c : Instr) (s : State) : State :=
  match exec c s with
  | .next t => t
  | .fault _ | .refused _ => s

/-- After power-on, with port 0's argument registers as given. -/
def ready (lock param count : Byte) (block dest : BlockNo) : State :=
  State.reset.onPort 0 fun q => { q with lock := lock, param := param, count := count, block := block, dest := dest }

/-- A state in which port `p` is in a port state. -/
def State.put (s : State) (p : PortId) (st : PortState) : State := s.onPort p fun q => { q with state := st }

/-- A defined lock on blocks 16 to 19. -/
def lockOf (lease : Byte) (mode : LockMode) (holders : List (PortId × Hold)) (queue : List Waiter) : Lock :=
  ⟨true, 16, 4, lease, mode, holders.foldl (fun v h => v.set h.1 (some h.2)) (Vector.replicate 4 none), queue⟩

/-- A hold without a lease. -/
def held : Hold := ⟨none⟩

/-- Port `p` holds nothing but waits on lock `l` in a queue behind no one. -/
def waiting (p : PortId) (w : Wanted) : Waiter := ⟨p, w, none⟩

/-- A state with a transfer in flight. -/
def moving (s : State) (x : Transfer) : State := { s with pool := { s.pool with transfer := some x } }

/-- A transfer of port 0 that reads block 5 clean. -/
def reads (kind : TransferKind) (dest : Option BlockNo) : Transfer :=
  ⟨.port 0, kind, 5, dest, some (.checked (Vector.replicate 16 .clean)), Vector.replicate 128 0xA5⟩

/-- Port 0 runs a command of `n` blocks from block 5. -/
def running (c : Command) (n : Byte) (st : PortState) : State :=
  State.reset.onPort 0 fun q =>
    { q with state := st, running := some ⟨c, .ascending⟩, count := n, block := 5, dest := 9 }

/-- A state of the pool with one block in a state of the map. -/
def mapped (s : State) (b : BlockNo) (v : BlockState) : State :=
  { s with pool := { s.pool with map := s.pool.map.set b.toNat v } }

/-! ## One step of each command -/

/-- R121: the load of the first block is requested. -/
theorem test_READ_BLOCKS : ((after (.readBlocks 0) (ready 0 0 1 511 0)).port 0).outgoing = some (.pool ⟨.load, 511, none⟩) := by
  decide +kernel

/-- R95: a run whose end passes block 511. -/
theorem test_READ_BLOCKS_past_the_end : ((after (.readBlocks 0) (ready 0 0 2 511 0)).port 0).kind = .badParam := by
  decide +kernel

/-- R123: the data phase opens before any request. -/
theorem test_WRITE_BLOCKS : ((after (.writeBlocks 0) (ready 0 0 1 3 0)).port 0).state = .dataOut ∧
    ((after (.writeBlocks 0) (ready 0 0 1 3 0)).port 0).outgoing = none := by decide +kernel

/-- R117: DEST is the last block of the source run, so the copy descends. -/
theorem test_COPY_BLOCKS_descends : ((after (.copyBlocks 0) (ready 0 0 4 10 13)).port 0).outgoing =
    some (.pool ⟨.copy, 13, some 16⟩) := by decide +kernel

/-- R117: DEST just past the source run. -/
theorem test_COPY_BLOCKS_ascends : ((after (.copyBlocks 0) (ready 0 0 4 10 14)).port 0).outgoing =
    some (.pool ⟨.copy, 10, some 14⟩) := by decide +kernel

/-- R118, R119. -/
theorem test_ZERO_BLOCKS : ((after (.zeroBlocks 0) (ready 0 0 255 0 0)).port 0).outgoing = some (.pool ⟨.zero, 0, none⟩) := by
  decide +kernel

/-- R118, R120. -/
theorem test_VERIFY_BLOCKS : ((after (.verifyBlocks 0) (ready 0 0 1 7 0)).port 0).outgoing =
    some (.pool ⟨.verify, 7, none⟩) := by decide +kernel

/-- R95, R165: 15h is no command code. -/
theorem test_BAD_COMMAND : ((after (.badCommand 0 0x15) State.reset).port 0).error = 0x01 := by decide +kernel

/-- R42: granted beside another SHARED holder. -/
theorem test_ACQUIRE_SHARED : ((after (.acquireShared 0 .takenAtOnce)
    ((ready 3 0 0 0 0).setLock 3 (lockOf 0 .shared [(2, held)] []))).lockAt 3).holderList = [0, 2] := by decide +kernel

/-- R42: an entry in the queue stops a SHARED request, whatever it wants. -/
theorem test_ACQUIRE_SHARED_queues : (((after (.acquireShared 0 .takenAtOnce)
    ((ready 3 255 0 0 0).setLock 3 (lockOf 0 .shared [(2, held)] [waiting 1 .exclusive]))).lockAt 3).queue.map Waiter.port) =
      [1, 0] := by decide +kernel

/-- R43, R65: lease 3 starts between two ticks: 31 ticks on. -/
theorem test_ACQUIRE_EXCLUSIVE : ((after (.acquireExclusive 0 .takenAtOnce)
    ((ready 3 0 0 0 0).setLock 3 (lockOf 3 .free [] []))).lockAt 3).holders[0] = some ⟨some 31⟩ := by decide +kernel

/-- R41: wait limit 0. -/
theorem test_ACQUIRE_EXCLUSIVE_would_wait : ((after (.acquireExclusive 0 .takenAtOnce)
    ((ready 3 0 0 0 0).setLock 3 (lockOf 3 .shared [(1, held)] []))).port 0).kind = .wouldWait := by decide +kernel

/-- R48: the entry stands at the head. -/
theorem test_UPGRADE_waits_at_the_head : (((after (.upgrade 0 .takenAtOnce)
    ((ready 3 9 0 0 0).setLock 3 (lockOf 0 .shared [(0, held), (1, held)] [waiting 2 .exclusive]))).lockAt 3).queue.map
      Waiter.port) = [0, 2] := by decide +kernel

/-- R50, R38: a SHARED head is granted by the downgrade. -/
theorem test_DOWNGRADE_admits : ((after (.downgrade 0 .takenAtOnce)
    ((ready 3 0 0 0 0).setLock 3 (lockOf 0 .exclusive [(0, held)] [waiting 2 .shared]))).lockAt 3).holderList = [0, 2] := by
  decide +kernel

/-- R51, R38: an EXCLUSIVE head is granted, and those behind it wait. -/
theorem test_RELEASE_admits : (let t := (after (.release 0 .takenAtOnce)
      ((ready 3 0 0 0 0).setLock 3 (lockOf 0 .shared [(0, held)] [waiting 2 .exclusive, waiting 1 .shared])));
    ((t.lockAt 3).holderList, (t.lockAt 3).queue.map Waiter.port, (t.port 2).done)) = ([2], [1], true) := by decide +kernel

/-- R66. -/
theorem test_RENEW : ((after (.renew 0 .takenAtOnce)
    ((ready 3 0 0 0 0).setLock 3 (lockOf 2 .shared [(0, ⟨some 5⟩)] []))).lockAt 3).holders[0] = some ⟨some 21⟩ := by
  decide +kernel

/-- R168: bytes 2, 3, 5 and 7, mode EXCLUSIVE, first block 16, count 4, holder mask of port 1. -/
theorem test_QUERY_LOCK : (let t := (after (.queryLock 0 .takenAtOnce)
      ((ready 3 0 0 0 0).setLock 3 (lockOf 0 .exclusive [(1, held)] []))).port 0;
    (t.staging[2], t.staging[3], t.staging[5], t.staging[7], t.staging[9])) = (2, 16, 4, 2, 0xFF) := by decide +kernel

/-- R24: block 19 is covered by lock 3. -/
theorem test_DEFINE_LOCK_overlap : ((after (.defineLock 0 .takenAtOnce)
    ((ready 4 0 1 19 0).setLock 3 (lockOf 0 .free [] []))).port 0).kind = .overlap := by decide +kernel

/-- R25: the lease length is DEST_L. -/
theorem test_DEFINE_LOCK : ((after (.defineLock 0 .takenAtOnce) (ready 4 0 1 20 0x105)).lockAt 4) =
    ⟨true, 20, 1, 5, .free, Vector.replicate 4 none, []⟩ := by decide +kernel

/-- R27. -/
theorem test_UNDEFINE_LOCK_busy : ((after (.undefineLock 0 .takenAtOnce)
    ((ready 3 0 0 0 0).setLock 3 (lockOf 0 .shared [(1, held)] []))).port 0).kind = .lockBusy := by decide +kernel

/-- R29: the holder finds the id in its lost set, an UPGRADE waiter ends HOLD_LOST, the next waiter is granted. -/
theorem test_BREAK_LOCK : (let t := after (.breakLock 0 .takenAtOnce) ((ready 3 0 0 0 0).setLock 3
      (lockOf 0 .shared [(1, held), (2, held)] [waiting 1 .upgrade, waiting 3 .exclusive]));
    (t.readWindow 2 0xF, (t.port 1).kind, (t.lockAt 3).holderList)) = (3, .holdLost, [3]) := by decide +kernel

/-- R155. -/
theorem test_SET_RIGHTS : (after (.setRights 0 .takenAtOnce) (ready 2 1 0 0 0)).rights = ⟨false, true, false⟩ := by
  decide +kernel

/-- R90. -/
theorem test_SET_ARBITER : (after (.setArbiter 0 .takenAtOnce) (ready 0 1 0 0 0)).arbiter.mode = .fixed := by decide +kernel

/-- R148, R151: an interval of 7 started between two ticks. -/
theorem test_SET_SCRUB : (after (.setScrub 0 .takenAtOnce) (ready 0 7 0 0 0)).scrubber.timer = some ⟨0, 8⟩ := by decide +kernel

/-- R159, R169: the record holds the mark and the count that the capture clears. -/
theorem test_READ_FAULT_LIST : (let t := (after (.readFaultList 0)
      { ready 0 1 0 0 0 with pool := { Pool.powerOn with faults := [300], overflow := true, corrected := 0x1234 } });
    ((t.port 0).staging[1], (t.port 0).staging[2], (t.port 0).staging[3], (t.port 0).staging[4], t.pool.corrected)) =
      (1, 0x34, 0x12, 0x2C, 0) := by decide +kernel

/-- R140: a queue of 8 notes is full. -/
theorem test_POST_NOTE_full : ((after (.postNote 0 .takenAtOnce)
    ((ready 2 0 0 0 0).onPort 2 fun q => { q with notes := List.replicate 8 ⟨1, 2, 3⟩ })).port 0).kind = .noteFull := by
  decide +kernel

/-- R138, R140: the tag is DEST_L. -/
theorem test_POST_NOTE : (let t := after (.postNote 0 .takenAtOnce) (ready 2 0x77 0 0 0x1AB);
    (t.readWindow 2 0xC, t.readWindow 2 0xD, t.readWindow 2 0xE)) = (0, 0x77, 0xAB) := by decide +kernel

/-- R167: the example below its table, bytes 4 to 9. -/
theorem test_IDENTIFY : (let t := (after (.identify 2) { State.reset with scrubber := { Scrubber.reset with position := 300 } }).port 2;
    (t.staging[4], t.staging[5], t.staging[6], t.staging[7], t.staging[8], t.staging[9])) = (2, 0, 0, 0, 0x2C, 1) := by
  decide +kernel

/-- R107. -/
theorem test_ABORT_in_DATA_OUT : ((after (.abort 0 1) (running .writeBlocks 1 .dataOut)).port 0).kind = .aborted := by
  decide +kernel

/-- R111, R113: a waiting port leaves the queue, and its window reads as after power-on. -/
theorem test_PORT_RESET : (let t := after (.portReset 2 3) ((State.put State.reset 2 .waitLock).setLock 3
      (lockOf 0 .exclusive [(1, held)] [waiting 2 .exclusive]));
    ((t.port 2).state, (t.lockAt 3).queue)) = (.ready, []) := by decide +kernel

/-- R103, R121: the 128th read of the last block. -/
theorem test_DATA_READ_last : (let t := (after (.dataRead 0)
      ((running .readBlocks 1 .dataIn).onPort 0 fun q => { q with index := 127 })).port 0;
    (t.state, t.count, t.block, t.done)) = (.ready, 0, 5, true) := by decide +kernel

/-- R103: a write of DATA in DATA_IN is ignored. -/
theorem test_DATA_WRITE_in_DATA_IN : after (.dataWrite 0 0x5A) (running .readBlocks 1 .dataIn) = running .readBlocks 1 .dataIn := by
  decide +kernel

/-- R104: the 128th write requests the store. -/
theorem test_DATA_WRITE_last : ((after (.dataWrite 0 0x5A)
    ((running .writeBlocks 1 .dataOut).onPort 0 fun q => { q with index := 127 })).port 0).outgoing =
      some (.pool ⟨.store, 5, none⟩) := by decide +kernel

/-- R99, R164: DONE is bit 4; the read clears it. -/
theorem test_STATUS_READ : (let t := (after (.statusRead 0) (State.reset.onPort 0 fun q => { q with done := true })).port 0;
    (t.dataBus, t.done)) = (0x10, false) := by decide +kernel

/-- R164: the examples below its table, 91h and 40h. -/
theorem test_ERROR : { Port.reset with corr := true, kind := .uncorrectable }.error = 0x91 ∧
    { Port.reset with rej := true }.error = 0x40 := by decide +kernel

/-- R142. -/
theorem test_NOTE_POP : (after (.notePop 0 0) (State.reset.onPort 0 fun q => { q with notes := [⟨1, 2, 3⟩, ⟨2, 4, 5⟩] })).readWindow
    0 0xC = 2 := by decide +kernel

/-- R77: the lowest id is shown. -/
theorem test_LOST_WRITE : (after (.lostWrite 0 4)
    (State.reset.onPort 0 fun q => (q.addLost 31).addLost 4)).readWindow 0 0xF = 0x1F := by decide +kernel

/-- R114. -/
theorem test_IRQEN_WRITE : ((after (.irqenWrite 0 0xFF) State.reset).port 0).irqen = 0x57 := by decide +kernel

/-- R98: only bit 0 of a high register is kept. -/
theorem test_REGISTER_WRITE : ((after (.registerWrite 0 6 0xFF) State.reset).port 0).dest = 256 := by decide +kernel

/-- R98: outside READY the write is ignored. -/
theorem test_REGISTER_WRITE_busy : ((after (.registerWrite 0 7 5) (running .readBlocks 1 .exec)).port 0).lock = 0 := by
  decide +kernel

/-- R16. -/
theorem test_POWER_ON : (after .powerOn (mapped State.reset 5 .good)).pool.stateOf 5 = .unwritten := by decide +kernel

/-- R17: a store cut in flight. -/
theorem test_DEVICE_RESET : (let t := after .deviceReset (moving State.reset ⟨.port 0, .store, 5, none, none, Vector.replicate 128 1⟩);
    (t.pool.stateOf 5, t.pool.faults, t.pool.transfer.isNone)) = (.poisoned, [5], true) := by decide +kernel

/-- R63. -/
theorem test_TICK : (after .tick { State.reset with now := 41 }).now = 42 := by decide +kernel

/-- R67: the due lease falls and the waiter behind it is granted, with a lease of 10n ticks from this tick. -/
theorem test_LEASE_EXPIRY : (let t := after (.leaseExpiry 3 1) ({ State.reset with now := 31 }.setLock 3
      (lockOf 3 .exclusive [(1, ⟨some 31⟩)] [waiting 2 .shared]));
    ((t.lockAt 3).holders[2], t.readWindow 1 0xF)) = (some ⟨some 61⟩, 3) := by decide +kernel

/-- R64: not due yet. -/
theorem test_LEASE_EXPIRY_early : (after (.leaseExpiry 3 1) ({ State.reset with now := 30 }.setLock 3
    (lockOf 3 .exclusive [(1, ⟨some 31⟩)] []))).readWindow 1 0xF = 0xFF := by decide +kernel

/-- R71. -/
theorem test_WAIT_TIMEOUT : ((after (.waitTimeout 3 2) ({ State.put State.reset 2 .waitLock with now := 11 }.setLock 3
    (lockOf 0 .exclusive [(1, held)] [⟨2, .shared, some 11⟩]))).port 2).kind = .waitTimeout := by decide +kernel

/-- R149, R150: the block at the position is UNWRITTEN, so the step is a skip, and the timer runs exactly 7 ticks. -/
theorem test_SCRUB_REQUEST_skips : (after .scrubRequest
    { State.reset with scrubber := ⟨7, 511, .timing, some ⟨8, 8⟩⟩ }).scrubber = ⟨7, 0, .timing, some ⟨0, 7⟩⟩ := by decide +kernel

/-- R82: ROTATE with the pointer at 3 looks at port 0 first. -/
theorem test_POOL_GRANT : (after .poolGrant { State.reset with
    arbiter := { Arbiter.reset with waiting := Vector.replicate 4 (some ⟨.zero, 5, none⟩) } }).arbiter.pointer = 0 := by decide +kernel

/-- R10, R121: the bytes read are offered. -/
theorem test_LOAD_END : (let t := (after .loadEnd (moving (running .readBlocks 1 .exec) (reads .load none))).port 0;
    (t.state, t.staging[127])) = (.dataIn, 0xA5) := by decide +kernel

/-- R8: an uncorrectable group poisons the block. -/
theorem test_LOAD_END_uncorrectable : (let t := after .loadEnd (moving (running .readBlocks 1 .exec)
      ⟨.port 0, .load, 5, none, some (.checked ((Vector.replicate 16 .clean).set 15 .uncorrectable)), Vector.replicate 128 0⟩);
    (t.pool.stateOf 5, (t.port 0).kind)) = (.poisoned, .uncorrectable) := by decide +kernel

/-- R9, R123: the block is GOOD and the next data phase opens. -/
theorem test_STORE_END : (let t := after .storeEnd (moving (running .writeBlocks 2 .exec)
      ⟨.port 0, .store, 5, none, none, Vector.replicate 128 0x3C⟩);
    (t.pool.stateOf 5, Memory.byteAt? t.pool.mem (storeAddr 5 127), (t.port 0).state, (t.port 0).block)) =
      (.good, some 0x3C, .dataOut, 6) := by decide +kernel

/-- R119: the last zero ends the command. -/
theorem test_ZERO_END : ((after .zeroEnd (moving (running .zeroBlocks 1 .exec)
    ⟨.port 0, .zero, 5, none, none, Vector.replicate 128 0⟩)).port 0).done = true := by decide +kernel

/-- R11, R118: the destination holds the data, and the next pair is requested. -/
theorem test_COPY_END : (let t := after .copyEnd (moving (running .copyBlocks 2 .exec) (reads .copy (some 9)))
    (Memory.byteAt? t.pool.mem (storeAddr 9 0), (t.port 0).outgoing)) =
      (some 0xA5, some (.pool ⟨.copy, 6, some 10⟩)) := by decide +kernel

/-- R7, R14, R131: one corrected group. -/
theorem test_VERIFY_END_corrected : (let t := after .verifyEnd (moving (running .verifyBlocks 1 .exec)
      ⟨.port 0, .verify, 5, none, some (.checked ((Vector.replicate 16 .clean).set 2 .correctable)), Vector.replicate 128 7⟩);
    (t.pool.corrected, (t.port 0).corr, (t.port 0).kind)) = (1, true, .none) := by decide +kernel

/-- R150: block 0 follows block 511. -/
theorem test_SCRUB_END : (after .scrubEnd { moving State.reset { reads .scrub none with requester := .scrubber, block := 511 } with
    scrubber := ⟨0, 511, .scrubbing, none⟩ }).scrubber = ⟨0, 0, .off, none⟩ := by decide +kernel

/-- R57: the entry goes, the command ends ABORTED, and the SHARED waiter behind it is granted. -/
theorem test_LOCK_ENTRY_WITHDRAWAL : (let t := (after (.lockEntryWithdrawal 2)
      ((State.reset.onPort 2 fun q => { q with state := .waitLock, held := some .abort }).setLock 3
        (lockOf 0 .shared [(1, held)] [waiting 2 .exclusive, waiting 3 .shared])));
    ((t.port 2).kind, (t.lockAt 3).holderList)) = (.aborted, [1, 3]) := by decide +kernel

/-- R85, R108. -/
theorem test_POOL_REQUEST_WITHDRAWAL : (let t := (after (.poolRequestWithdrawal (.port 0))
      { (running .readBlocks 1 .exec).onPort 0 fun q => { q with held := some .abort } with
        arbiter := { Arbiter.reset with waiting := Arbiter.reset.waiting.set 0 (some ⟨.load, 5, none⟩) } });
    ((t.port 0).kind, t.arbiter.waiting[0])) = (.aborted, none) := by decide +kernel

/-- R34. -/
theorem test_TABLE_PORT_RESET : ((after (.tablePortReset 1) (State.reset.setLock 3
    (lockOf 0 .exclusive [(1, held)] []))).lockAt 3).mode = .free := by decide +kernel

/-- R2: bit 9 of group 1 is bit 1 of byte 9. -/
theorem test_STORED_BIT_DISTURBANCE : Memory.byteAt? (after (.storedBitDisturbance 0 1 9)
    { State.reset with pool := { Pool.powerOn with mem := [(9, 0xF0)] } }).pool.mem 9 = some 0xF2 := by decide +kernel

/-- R96: the request taken. -/
theorem test_HANDED_REQUEST_ARRIVAL : ((after (.handedRequestArrival 0) (after (.acquireShared 0 .outstanding)
    ((ready 3 0 0 0 0).setLock 3 (lockOf 0 .free [] [])))).lockAt 3).mode = .shared := by decide +kernel

/-- R31, R109: the snapshot of a QUERY LOCK taken before the withdrawal is discarded. -/
theorem test_HANDED_REQUEST_ARRIVAL_of_an_aborting_QUERY_LOCK : (let t := after (.handedRequestArrival 0) (after (.abort 0 1)
      (after (.queryLock 0 .outstanding) ((ready 3 0 0 0 0).setLock 3 (lockOf 0 .free [] []))));
    ((t.port 0).state, (t.port 0).kind)) = (.ready, .aborted) := by decide +kernel

/-- R109: the withdrawal taken first. -/
theorem test_HANDED_REQUEST_WITHDRAWAL : (let t := after (.handedRequestWithdrawal 0) (after (.abort 0 1)
      (after (.acquireShared 0 .outstanding) ((ready 3 0 0 0 0).setLock 3 (lockOf 0 .free [] []))));
    ((t.port 0).kind, (t.lockAt 3).mode)) = (.aborted, .free) := by decide +kernel

/-- R81, R128: a write of a block whose lock the port does not hold is refused at the grant. -/
theorem test_POOL_REQUEST_ARRIVAL_refused : ((after (.poolRequestArrival 0) (after (.zeroBlocks 0)
    ((ready 0 0 1 16 0).setLock 3 (lockOf 0 .free [] [])))).port 0).kind = .access := by decide +kernel

/-- R83: the transfer begins. -/
theorem test_POOL_REQUEST_ARRIVAL : (after (.poolRequestArrival 0) (after (.zeroBlocks 0) (ready 0 0 1 16 0))).inFlight 0 = true := by
  decide +kernel

/-! ## States that meet the hypotheses of the statements, clause by clause -/

theorem meets_StepRunsTheFrontCommand : State.reset.pending = [] := rfl

theorem meets_CommandWriteWhileBusySetsRej : (Instr.badCommand 3 0xFF).hostPort = some 3 ∧
    (Instr.badCommand 3 0xFF).codeWritten = some 0xFF ∧
    ∀ st ∈ [PortState.exec, .waitLock, .dataIn, .dataOut, .aborting], ((State.put State.reset 3 st).port 3).state ≠ .ready := by
  decide +kernel

theorem meets_AcceptanceRefusals : (State.reset.port 1).state = .ready ∧ commandOfCode 0x15 = none ∧
    commandOfCode 0x30 = some .defineLock ∧ State.reset.hasRight 1 .defineLock = false ∧
    commandOfCode 0x10 = some .readBlocks ∧ (ready 0 0 2 511 0).hasRight 0 .readBlocks = true ∧
    ((ready 0 0 2 511 0).port 0).argumentsInRange .readBlocks = false := by decide +kernel

theorem meets_BlockCommandsBegin : (∀ b ∈ [(511, 1), (257, 255)], let q := (ready 0 0 (BitVec.ofNat 8 b.2) (BitVec.ofNat 9 b.1) 0).port 0;
      q.state = .ready ∧ q.count ≠ 0 ∧ q.block.toNat + q.count.toNat ≤ 512) ∧
    (let q := (ready 0 0 4 10 13).port 0;
      q.block.toNat < q.dest.toNat ∧ q.dest.toNat ≤ q.block.toNat + q.count.toNat - 1 ∧ q.dest.toNat + q.count.toNat ≤ 512) ∧
    (let q := (ready 0 0 4 10 14).port 0;
      ¬ (q.block.toNat < q.dest.toNat ∧ q.dest.toNat ≤ q.block.toNat + q.count.toNat - 1) ∧
        q.dest.toNat + q.count.toNat ≤ 512) := by decide +kernel

theorem meets_CopyNeverReadsAWrittenBlock :
    (0 < 3 ∧ 3 < ((ready 0 0 4 10 13).port 0).count.toNat ∧ ((ready 0 0 4 10 13).port 0).argumentsInRange .copyBlocks = true ∧
      ((ready 0 0 4 10 13).port 0).copiesDown = true) ∧
    ((ready 0 0 4 10 9).port 0).argumentsInRange .copyBlocks = true ∧ ((ready 0 0 4 10 9).port 0).copiesDown = false := by
  decide +kernel

theorem meets_IdentifyRecord : (State.reset.port 3).state = .ready := by decide +kernel

theorem meets_FaultListRecord : let s : State := { ready 0 1 0 0 0 with
      pool := { Pool.powerOn with faults := (List.range 16).map (BitVec.ofNat 9) } };
    (s.port 0).state = .ready ∧ s.rights.holds 0 = true ∧ s.pool.faults.length ≤ 16 ∧ (s.port 0).param.getLsbD 0 = true := by
  decide +kernel

theorem meets_HandedCommandsBegin : ((ready 3 1 1 511 0).port 0).state = .ready ∧
    ∀ c ∈ [Command.acquireShared, .acquireExclusive, .upgrade, .downgrade, .release, .renew, .queryLock, .defineLock,
        .undefineLock, .breakLock, .setRights, .setArbiter, .setScrub, .postNote],
      (ready 3 1 1 511 0).hasRight 0 c = true ∧ ((ready 3 1 1 511 0).port 0).argumentsInRange c = true := by decide +kernel

theorem meets_TicksAndDeadlines : (255 : Byte) ≠ 0 ∧ (0 : Byte) ≠ 255 ∧ State.reset.scrubber.timer = none ∧
    ({ State.reset with scrubber := ⟨1, 0, .timing, some ⟨0, 2⟩⟩ } : State).scrubber.timer = some ⟨0, 2⟩ := by decide +kernel

/-- Port 0 is READY and names lock 31, whose record is `k`. -/
def asking (param : Byte) (k : Lock) : State := (ready 31 param 0 0 0).setLock 31 k

theorem meets_AcquireGrantedAtOnce :
    (∀ k ∈ [lockOf 0 .shared [(1, held), (2, held), (3, held)] [], lockOf 255 .free [] []],
      (asking 0 k).asks 0 31 ∧ k.defined = true ∧ k.holds 0 = false ∧ k.queue = [] ∧ k.mode ≠ .exclusive) ∧
    (lockOf 255 .free [] []).mode = .free := by decide +kernel

theorem meets_LockCommandsRefused :
    (asking 0 Lock.reset).asks 0 31 ∧ Lock.reset.defined = false ∧
    (let k := lockOf 0 .exclusive [(0, held)] []; k.defined = true ∧ k.holds 0 = true ∧ k.mode = .exclusive) ∧
    (let k := lockOf 0 .shared [(1, held)] [waiting 2 .exclusive];
      k.defined = true ∧ k.holds 0 = false ∧ k.queue ≠ [] ∧ k.mode ≠ .free ∧ ((asking 0 k).port 0).param = 0) ∧
    (let k := lockOf 0 .shared [(0, held), (1, held)] [waiting 1 .upgrade];
      k.defined = true ∧ k.holds 0 = true ∧ k.mode ≠ .exclusive ∧ k.holderList ≠ [0] ∧ ∃ w ∈ k.queue, w.want = .upgrade) ∧
    (let k := lockOf 0 .shared [(0, held), (1, held)] [];
      k.defined = true ∧ k.holds 0 = true ∧ k.mode ≠ .exclusive ∧ k.holderList ≠ [0] ∧ (∀ w ∈ k.queue, w.want ≠ .upgrade) ∧
        ((asking 0 k).port 0).param = 0 ∧ decide (k.holds 0 = true ∧ k.mode = .exclusive) = false) := by decide +kernel

/-- A record is sound if what can be decided of it holds. -/
theorem record_sound (k : Lock)
    (h : (k.mode = .free ↔ k.holderList = []) ∧ (k.mode = .exclusive → k.holderList.length = 1) ∧
      (k.defined = false → k = Lock.reset) ∧ (∀ p : PortId, ∀ g ∈ k.holders[p], (g.lease = none ↔ k.lease = 0)) ∧
      k.rangeSound ∧ k.queueSound ∧ ∀ w ∈ k.queue.head?, k.grantable w = false) :
    k.sound ∧ k.rangeSound ∧ k.queueSound ∧ k.settled :=
  have ⟨free, alone, undefined, leases, range, queue, head⟩ := h
  ⟨⟨free, alone, undefined, leases⟩, range, queue, head⟩

/-- Without an edge out of it a port reaches nothing. -/
theorem not_reachable_of_no_edge (s : State) (a b : PortId) (h : ∀ c : PortId, s.waitsFor a c = false) : ¬ s.reachable a b := by
  intro hr
  obtain ⟨c, hc, -⟩ := Relation.TransGen.head'_iff.1 hr
  rw [h c] at hc
  exact Bool.noConfusion hc

/-- Ports 1 and 0: port 1 holds lock 31 and waits on lock 30, which port 0 holds. -/
def crossed (k : Lock) : State := (asking 1 k).setLock 30 (lockOf 0 .exclusive [(0, held)] [waiting 1 .shared])

theorem meets_WaitsUnlessADeadlockWouldClose :
    (let k := lockOf 0 .exclusive [(1, held)] [];
      (crossed k).asks 0 31 ∧ ((crossed k).port 0).param ≠ 0 ∧ k.holds 0 = false ∧ k.mode ≠ .free ∧
        ∃ h : PortId, h ≠ 0 ∧ k.holds h = true ∧ (crossed k).reachable h 0) ∧
    (let k := lockOf 0 .shared [(0, held), (1, held)] [];
      (asking 254 k).asks 0 31 ∧ ((asking 254 k).port 0).param ≠ 0 ∧ k.holds 0 = true ∧ k.mode ≠ .exclusive ∧
        k.holderList ≠ [0] ∧ (∀ w ∈ k.queue, w.want ≠ .upgrade) ∧
        ¬ ∃ h : PortId, h ≠ 0 ∧ k.holds h = true ∧ (asking 254 k).reachable h 0) := by
  have hp : (let s := asking 254 (lockOf 0 .shared [(0, held), (1, held)] []); s.asks 0 31 ∧ (s.port 0).param ≠ 0) := by
    decide +kernel
  have hk : (let k := lockOf 0 .shared [(0, held), (1, held)] [];
      k.holds 0 = true ∧ k.mode ≠ .exclusive ∧ k.holderList ≠ [0] ∧ ∀ w ∈ k.queue, w.want ≠ .upgrade) := by decide +kernel
  refine ⟨⟨by decide +kernel, by decide +kernel, rfl, by decide +kernel, 1, by decide, rfl, .single (by decide +kernel)⟩,
    hp.1, hp.2, hk.1, hk.2.1, hk.2.2.1, hk.2.2.2, ?_⟩
  have he : ∀ h c : PortId, (asking 254 (lockOf 0 .shared [(0, held), (1, held)] [])).waitsFor h c = false := by decide +kernel
  rintro ⟨h, -, -, hr⟩
  exact not_reachable_of_no_edge _ h 0 (he h) hr

/-- Port 0 in EXEC with a handed request on its way and perhaps an abort held, beside lock 31 and lock 3 on blocks 16 to 19. -/
def handing (h : Option HeldAction) (r : HandedRequest) (k : Lock) : State :=
  (((running .renew 0 .exec).onPort 0 fun q => { q with held := h, outgoing := some (.handed r) }).setLock 31 k).setLock 3
    (lockOf 0 .free [] [])

theorem meets_TakenAtOnceIsOutstandingThenArrival : (State.reset.port 2).state = .ready ∧ (State.reset.port 2).outgoing = none ∧
    ∀ h ∈ [none, some HeldAction.abort], ∀ r ∈ [HandedRequest.acquireShared 31 0, .acquireExclusive 31 254, .upgrade 31 1,
          .downgrade 31, .release 31, .renew 31, .queryLock 31, .defineLock 31 511 1 0, .defineLock 31 19 1 0, .undefineLock 31,
          .breakLock 31, .setRights 3 true, .setArbiter true, .setScrub 0, .postNote 0 1 2, .postNote 3 1 2],
      ∀ k ∈ [Lock.reset, lockOf 1 .exclusive [(0, held)] [waiting 1 .shared]],
        let s := handing h r k
        (s.port 0).outgoing = some (.handed r) ∧ (s.port 0).held = h ∧ s.lockAt 31 = k := by decide +kernel

/-- Locks for the requests of port 0 that are granted, and for those that end with a kind. -/
theorem meets_TakenAtOnceIsOutstandingThenArrival_locks :
    (let k := lockOf 0 .free [] []; k.defined = true ∧ k.queue = [] ∧ k.mode = .free ∧ ∀ p : PortId, k.holds p = false) ∧
    (let k := lockOf 0 .shared [(1, held)] [waiting 2 .exclusive]; k.holds 0 = false ∧ k.queue ≠ [] ∧ k.mode ≠ .free) ∧
    (let k := lockOf 1 .exclusive [(0, held)] [waiting 1 .shared]; k.holds 0 = true ∧ k.mode = .exclusive ∧ k.lease ≠ 0) ∧
    (let k := lockOf 0 .shared [(0, held)] []; k.holds 0 = true ∧ k.lease = 0 ∧ k.holderList = [0]) ∧
    (let k := lockOf 0 .shared [(0, held), (1, held)] [waiting 1 .upgrade, waiting 2 .shared];
      k.holderList ≠ [0] ∧ (∃ w ∈ k.queue, w.want = .upgrade) ∧ k.upgrades 1 = true ∧ k.upgrades 3 = false) ∧
    (let k := lockOf 0 .shared [(0, held), (1, held)] []; k.holderList ≠ [0] ∧ ∀ w ∈ k.queue, w.want ≠ .upgrade) := by
  decide +kernel

/-- A DEFINE LOCK that meets lock 3 at its last block, and one past every lock. -/
theorem meets_TakenAtOnceIsOutstandingThenArrival_define :
    ((handing none (.defineLock 31 19 1 0) Lock.reset).lockAt 3).covers 19 = true ∧
      ∀ (i : LockId) (b : BlockNo), b.toNat = 511 → ((handing none (.defineLock 31 511 1 0) Lock.reset).lockAt i).covers b = false := by
  refine ⟨by decide +kernel, fun i b h => ?_⟩
  obtain rfl : b = 511 := BitVec.eq_of_toNat_eq h
  revert i; decide +kernel

/-- The phases of the scrubber that a SET SCRUB meets, and a note queue with room for one note and a full one. -/
theorem meets_TakenAtOnceIsOutstandingThenArrival_blocks :
    (∀ ph ∈ [ScrubPhase.off, .timing, .requested, .scrubbing],
      ({ handing none (.setScrub 0) Lock.reset with scrubber := ⟨9, 0, ph, none⟩ } : State).scrubber.phase = ph) ∧
    ∀ n ∈ [7, 8], ((State.reset.onPort 3 fun q => { q with notes := List.replicate n ⟨1, 2, 3⟩ }).port 3).notes.length = n := by
  decide +kernel

/-- The two outcomes of a wait: port 1 waits on lock 30, which port 0 holds, or port 1 waits on nothing. -/
theorem meets_TakenAtOnceIsOutstandingThenArrival_waits : let k := lockOf 0 .exclusive [(1, held)] [];
    let s := handing (some .abort) (.acquireShared 31 1) k;
    (∃ h : PortId, h ≠ 0 ∧ k.holds h = true ∧
      (s.setLock 30 (lockOf 0 .exclusive [(0, held)] [waiting 1 .shared])).reachable h 0) ∧
    ¬ ∃ h : PortId, h ≠ 0 ∧ k.holds h = true ∧ s.reachable h 0 := by
  refine ⟨⟨1, by decide, by decide +kernel, .single (by decide +kernel)⟩, ?_⟩
  have he : ∀ h c : PortId,
      (handing (some .abort) (.acquireShared 31 1) (lockOf 0 .exclusive [(1, held)] [])).waitsFor h c = false := by decide +kernel
  rintro ⟨h, -, -, hr⟩
  exact not_reachable_of_no_edge _ h 0 (he h) hr

theorem meets_UpgradeGrantedAtOnce : let k := lockOf 7 .shared [(0, ⟨some 3⟩)] [waiting 1 .exclusive];
    (asking 0 k).asks 0 31 ∧ k.defined = true ∧ k.mode = .shared ∧ ∀ h : PortId, k.holds h = true ↔ h = 0 := by decide +kernel

theorem meets_HoldsKeptAndGivenUp :
    (let k := lockOf 1 .exclusive [(0, ⟨some 3⟩)] [waiting 1 .shared];
      (asking 0 k).asks 0 31 ∧ k.defined = true ∧ k.holds 0 = true ∧ k.mode = .exclusive ∧ k.lease ≠ 0) ∧
    (lockOf 0 .shared [(0, held)] []).lease = 0 ∧ (lockOf 0 .shared [(0, held)] []).holds 0 = true := by decide +kernel

theorem meets_QueryLockRecord : let k := lockOf 1 .shared [(0, ⟨some 3⟩)] [waiting 1 .exclusive, waiting 2 .shared, waiting 3 .shared];
    ((asking 0 k).asks 0 31 ∧ ((asking 0 k).port 0).held = none ∧ k.defined = true ∧ k.queue.length ≤ 4 ∧
      Lock.reset.defined = false) ∧ k.sound := ⟨by decide +kernel, (record_sound _ (by decide +kernel)).1⟩

/-- A run that ends at block 511 and meets no lock. -/
theorem meets_DefineAndUndefineLock :
    (let s := (ready 31 0 1 511 0); s.asks 0 31 ∧ s.rights.holds 0 = true ∧ (s.port 0).count ≠ 0 ∧
      (s.port 0).block.toNat + (s.port 0).count.toNat ≤ 512 ∧ ∀ i : LockId, (s.lockAt i).defined = false) ∧
    (let k := lockOf 0 .free [] []; k.defined = true ∧ (∀ h : PortId, k.holds h = false) ∧ k.queue = []) ∧
    (let k := lockOf 0 .shared [(3, held)] []; k.defined = true ∧ ¬ ∀ h : PortId, k.holds h = false) := by decide +kernel

/-- An undefined lock covers nothing, so that run meets none. -/
theorem meets_DefineAndUndefineLock_apart (i : LockId) (b : BlockNo) : ((ready 31 0 1 511 0).lockAt i).covers b = false := by
  have h := meets_DefineAndUndefineLock.1.2.2.2.2 i
  rw [Lock.covers, h, Bool.false_and]

/-- A run that starts at the last block of lock 3. -/
theorem meets_DefineAndUndefineLock_shares : let s := (ready 31 0 1 19 0).setLock 3 (lockOf 0 .free [] []);
    (s.lockAt 31).defined = false ∧ ∃ (i : LockId) (b : BlockNo), i ≠ 31 ∧ (s.lockAt i).covers b = true ∧
      (s.port 0).block.toNat ≤ b.toNat ∧ b.toNat < (s.port 0).block.toNat + (s.port 0).count.toNat :=
  ⟨rfl, 3, 19, by decide +kernel⟩

theorem meets_BreakLock : let k := lockOf 0 .shared [(0, held), (1, held)] [waiting 1 .upgrade, waiting 2 .exclusive];
    (asking 0 k).asks 0 31 ∧ (asking 0 k).rights.holds 0 = true ∧ k.defined = true ∧ k.upgrades 1 = true ∧
      (Lock.admitFrom none [waiting 2 .exclusive] { k with mode := .free, holders := Vector.replicate 4 none }).2 = [2] ∧
      k.upgrades 3 = false ∧ Lock.reset.defined = false := by decide +kernel

theorem meets_SetRightsAndSetArbiter : let s := ready 3 1 0 0 0;
    (s.port 0).state = .ready ∧ (s.port 0).param.toNat ≤ 1 ∧ (3 : PortId) ≠ 0 ∧ (s.port 0).lock.toNat = (3 : PortId).val ∧
      s.rights.holds 0 = true := by decide +kernel

theorem meets_SetScrubByPhase : (ready 0 0 0 0 0).rights.holds 0 = true ∧ ((ready 0 0 0 0 0).port 0).state = .ready ∧
    ∀ ph ∈ [ScrubPhase.off, .timing, .requested, .scrubbing], ∀ n ∈ [(0 : Byte), 255],
      ({ ready 0 n 0 0 0 with scrubber := ⟨9, 0, ph, none⟩ } : State).scrubber.phase = ph ∧ ((ready 0 n 0 0 0).port 0).param = n := by
  decide +kernel

theorem meets_PostNote : ∀ n ∈ [7, 8], ∀ target ∈ [(0 : PortId), 3],
    let s := (ready (BitVec.ofNat 8 target.val) 1 0 0 0).onPort target fun q => { q with notes := List.replicate n ⟨1, 2, 3⟩ };
    (s.port 0).state = .ready ∧ (s.port 0).lock.toNat = target.val ∧ (s.port target).notes.length = n := by decide +kernel

theorem meets_NotePop : ∀ n ∈ [0, 1, 2], ((State.reset.onPort 0 fun q => { q with notes := List.replicate n ⟨1, 2, 3⟩ }).port
    0).notes = List.replicate n ⟨1, 2, 3⟩ := by decide +kernel

theorem meets_DataReadInDataIn : ∀ n ∈ [0, 126, 127], ∀ c ∈ [(Command.readBlocks, (1 : Byte)), (.readBlocks, 2), (.identify, 0)],
    let q := ((running c.1 c.2 .dataIn).onPort 0 fun q => { q with index := n }).port 0;
    q.state = .dataIn ∧ q.index = n ∧ q.running = some ⟨c.1, .ascending⟩ ∧ q.count = c.2 := by decide +kernel

theorem meets_DataWriteInDataOut : ∀ n ∈ [0, 126, 127],
    let q := ((running .writeBlocks 1 .dataOut).onPort 0 fun q => { q with index := n }).port 0;
    q.state = .dataOut ∧ q.index = n ∧ q.running = some ⟨.writeBlocks, .ascending⟩ := by decide +kernel

theorem meets_DataOutsideAPhase : ∀ st ∈ [PortState.ready, .exec, .waitLock, .aborting],
    ((State.put State.reset 3 st).port 3).state ≠ .dataIn ∧ ((State.put State.reset 3 st).port 3).state ≠ .dataOut := by
  decide +kernel

theorem meets_LostRegister : (let q := (Port.reset.addLost 31); q.lost[31] = true ∧
      ∀ m : LockId, m.val < 31 → q.lost[m] = false) ∧ ∀ l : LockId, Port.reset.lost[l] = false := by decide +kernel

theorem meets_RegisterWrites : (State.reset.port 0).state = .ready ∧ ((State.put State.reset 0 .exec).port 0).state ≠ .ready ∧
    (∀ o ∈ [(1 : Fin 16), 7], 1 ≤ o.val ∧ o.val ≤ 7) ∧ (0xE : Fin 16).val = 0xE ∧ (0x9 : Fin 16).val = 0x9 ∧
    (0xFC : Byte).getLsbD 0 = false ∧ (0xFC : Byte).getLsbD 1 = false := by decide +kernel

/-- Port 0 in a state with something held. -/
def holding (st : PortState) (h : Option HeldAction) (o : Option Outgoing) : State :=
  (running .readBlocks 1 st).onPort 0 fun q => { q with held := h, outgoing := o }

theorem meets_AbortByState : (0x01 : Byte).getLsbD 0 = true ∧ (0xFD : Byte).getLsbD 1 = false ∧
    (∀ st ∈ [PortState.ready, .exec, .waitLock, .dataIn, .dataOut, .aborting], ((holding st none none).port 0).state = st) ∧
    (moving (holding .exec none none) (reads .load none)).inFlight 0 = true ∧ (holding .exec none none).inFlight 0 = false ∧
    ((holding .exec (some .portReset) none).port 0).held = some .portReset := by decide +kernel

theorem meets_PortReset : (0x03 : Byte).getLsbD 1 = true ∧
    (∀ st ∈ [PortState.ready, .exec, .waitLock, .dataIn, .dataOut], ((holding st none none).port 0).state ≠ .aborting) ∧
    (holding .exec none none).inFlight 0 = false ∧ (holding .exec none none).poolRequested 0 = false ∧
    (moving (holding .exec none none) (reads .load none)).inFlight 0 = true ∧
    (holding .exec none (some (.pool ⟨.load, 5, none⟩))).poolRequested 0 = true ∧
    ((holding .aborting (some .abort) none).port 0).state = .aborting := by decide +kernel

theorem meets_AbortWithdrawals :
    (let s := holding .exec (some .abort) (some (.handed (.release 3)));
      (s.port 0).outgoing = some (.handed (.release 3)) ∧ (s.port 0).held = some .abort) ∧
    (let s := (holding .waitLock (some .abort) none).setLock 31 (lockOf 0 .exclusive [(1, held)] [waiting 0 .shared]);
      (s.port 0).outgoing = none ∧ (s.port 0).state = .waitLock ∧ (s.port 0).held = some .abort ∧
        (s.lockAt 31).waits 0 = true ∧ ∀ m : LockId, m ≠ 31 → (s.lockAt m).waits 0 = false) ∧
    (∀ o ∈ [none, some (Outgoing.handed (.release 3)), some (.pool ⟨.load, 5, none⟩)],
      ((holding .exec none o).port 0).outgoing = o ∧ ((holding .exec none o).port 0).held ≠ some .abort) ∧
    (State.reset.port 0).state ≠ .waitLock ∧ ∀ m : LockId, (State.reset.lockAt m).waits 0 = false := by decide +kernel

theorem meets_LeaseExpiry : let s : State := { State.reset with now := 11 };
    let k := lockOf 1 .shared [(0, ⟨some 11⟩), (1, ⟨some 12⟩)] [waiting 0 .upgrade, waiting 2 .exclusive];
    k.holders[0] = some ⟨some 11⟩ ∧ s.isDue (some 11) = true ∧ k.upgrades 0 = true ∧ k.holders[1] = some ⟨some 12⟩ ∧
      s.isDue (some 12) = false ∧ k.upgrades 1 = false ∧ k.holders[2] = none := by decide +kernel

theorem meets_WaitTimeout : let s : State := { State.reset with now := 11 };
    let k := lockOf 0 .exclusive [(1, held)] [⟨0, .shared, some 11⟩, ⟨2, .shared, some 12⟩];
    k.waits 3 = false ∧ (k.queue.map Waiter.port).Nodup ∧ s.isDue (some 11) = true ∧ s.isDue (some 12) = false ∧
      k.waits 0 = true ∧ k.waits 2 = true := by decide +kernel

/-- A timer that has just run out. -/
def timedOut : State := { State.reset with scrubber := ⟨7, 5, .timing, some ⟨8, 8⟩⟩ }

theorem meets_ScrubberStep : timedOut.scrubber.phase = .timing ∧ timedOut.scrubber.timer = some ⟨8, 8⟩ ∧
    ¬ (State.reset.scrubber.phase = .timing) ∧ (moving timedOut (reads .load none)).pool.transfer ≠ none ∧
    timedOut.pool.transfer = none ∧ (∀ q : PortId, timedOut.arbiter.waiting[q] = none) ∧
    (mapped timedOut 5 .good).pool.stateOf 5 = .good ∧ timedOut.pool.stateOf 5 ≠ .good ∧ timedOut.scrubber.interval ≠ 0 ∧
    State.reset.noneWaits ∧
    (∀ v ∈ [BlockState.good, .poisoned], ∀ n ∈ [(0 : Byte), 255],
      let s := moving { mapped (running .verifyBlocks 1 .exec) 7 v with
        scrubber := ⟨n, 7, .requested, none⟩, arbiter := { Arbiter.reset with scrubReq := some 7 } } (reads .verify none);
      s.pool.transfer = some (reads .verify none) ∧ (reads .verify none).requester = .port 0 ∧
        s.arbiter.choose = some .scrubber ∧ s.arbiter.scrubReq = some 7 ∧ (after .verifyEnd s).pool.stateOf 7 = v) ∧
    (let x : Transfer := { reads .scrub none with requester := .scrubber };
      (moving timedOut x).pool.transfer = some x ∧ x.kind = .scrub ∧ x.requester = .scrubber ∧ (moving timedOut x).noneWaits ∧
        ¬ (moving { timedOut with arbiter := { Arbiter.reset with waiting := Arbiter.reset.waiting.set 2 (some ⟨.zero, 5, none⟩) } }
          x).noneWaits) := by decide +kernel

theorem meets_PowerOnAndDeviceReset : State.reset.pool.transfer = none ∧
    (reads .copy (some 9)).result = .success false ∧ (reads .copy (some 9)).writeSet = [9] ∧ (reads .verify none).writeSet = [] ∧
    (⟨.port 0, .store, 5, none, none, Vector.replicate 128 0⟩ : Transfer).writeSet = [5] ∧
    (∀ r ∈ [(ReadOutcome.checked (Vector.replicate 16 .correctable), TransferResult.success true), (.blank, .failure .blank),
        (.poisoned, .failure .uncorrectable)],
      ({ reads .copy (some 9) with read := some r.1 } : Transfer).result = r.2 ∧
        ({ reads .load none with read := some r.1 } : Transfer).result = r.2) ∧
    ({ reads .copy (some 9) with read := some .blank } : Transfer).writeSet = [] ∧
    ({ reads .scrub none with read := some (.checked (Vector.replicate 16 .correctable)) } : Transfer).writeSet = [5] := by
  decide +kernel

theorem meets_ArbiterChoice :
    (let a : Arbiter := ⟨.rotate, 1, 16, Vector.replicate 4 (some ⟨.load, 5, none⟩), some 0⟩;
      a.scrubReq ≠ none ∧ 16 ≤ a.scrubWait) ∧
    (let a : Arbiter := ⟨.rotate, 1, 15, Arbiter.reset.waiting.set 1 (some ⟨.load, 5, none⟩), some 0⟩;
      a.scrubWait < 16 ∧ a.waiting[1].isSome ∧ ∀ q : PortId, q - a.pointer - 1 < 1 - a.pointer - 1 → a.waiting[q] = none) ∧
    (let a : Arbiter := ⟨.fixed, 1, 0, Arbiter.reset.waiting.set 3 (some ⟨.load, 5, none⟩), none⟩;
      a.waiting[3].isSome ∧ ∀ q : PortId, q < 3 → a.waiting[q] = none) ∧
    ∀ p : PortId, Arbiter.reset.waiting[p] = none := by decide +kernel

theorem meets_RotationReachesEveryPort : let a : Arbiter := { Arbiter.reset with waiting := Vector.replicate 4 (some ⟨.load, 5, none⟩) };
    a.mode = .rotate ∧ a.waiting[3].isSome ∧ a.choose = some (.port 0) ∧ (0 : PortId) ≠ 3 := by decide +kernel

theorem meets_AccessCheck : let s := State.reset.setLock 3 (lockOf 0 .shared [(1, held)] []);
    s.rangesDisjoint ∧ (s.lockAt 3).covers 16 = true ∧ (s.lockAt 3).covers 19 = true ∧
      ∀ l : LockId, (s.lockAt l).covers 20 = false := by decide +kernel

theorem meets_ArrivalAndGrant :
    (let s := holding .exec none (some (.pool ⟨.zero, 16, none⟩));
      (s.port 0).outgoing = some (.pool ⟨.zero, 16, none⟩) ∧ s.pool.transfer = none ∧ s.noneWaits ∧
        s.accessAllowed 0 ⟨.zero, 16, none⟩ = true ∧ (s.port 0).held ≠ some .portReset ∧
        (moving s (reads .load none)).pool.transfer ≠ none ∧
        (s.setLock 3 (lockOf 0 .free [] [])).accessAllowed 0 ⟨.zero, 16, none⟩ = false) ∧
    (∀ r : PoolRequest, (State.reset.port 0).outgoing ≠ some (.pool r)) ∧ State.reset.arbiter.choose = none ∧
    (let s : State := { State.reset with
        arbiter := { Arbiter.reset with waiting := Vector.replicate 4 (some ⟨.zero, 5, none⟩), scrubReq := some 0, scrubWait := 15 } };
      s.pool.transfer = none ∧ s.arbiter.choose = some (.port 0) ∧ s.arbiter.waiting[0] = some ⟨.zero, 5, none⟩ ∧
        s.accessAllowed 0 ⟨.zero, 5, none⟩ = true ∧
        (s.setLock 3 ⟨true, 5, 1, 0, .free, Vector.replicate 4 none, []⟩).accessAllowed 0 ⟨.zero, 5, none⟩ = false) ∧
    (∀ h ∈ [none, some HeldAction.abort, some .portReset],
      let s := (holding .exec h (some (.pool ⟨.zero, 16, none⟩))).setLock 3 (lockOf 0 .free [] []);
      (s.port 0).outgoing = some (.pool ⟨.zero, 16, none⟩) ∧ (s.port 0).held = h ∧ s.pool.transfer = none ∧ s.noneWaits ∧
        s.accessAllowed 0 ⟨.zero, 16, none⟩ = false) ∧
    (∀ v ∈ [BlockState.good, .unwritten], ∀ n ∈ [(0 : Byte), 255],
      let s := { mapped State.reset 511 v with
        scrubber := ⟨n, 511, .requested, none⟩
        arbiter := { Arbiter.reset with waiting := Arbiter.reset.waiting.set 2 (some ⟨.zero, 5, none⟩), scrubReq := some 511, scrubWait := 16 } };
      s.pool.transfer = none ∧ s.arbiter.choose = some .scrubber ∧ s.arbiter.scrubReq = some 511 ∧ s.pool.stateOf 511 = v) := by
  refine ⟨by decide +kernel, fun r h => ?_, by decide +kernel, by decide +kernel, by decide +kernel, by decide +kernel⟩
  have : (State.reset.port 0).outgoing = none := by decide +kernel
  rw [this] at h
  cases h

theorem meets_TransferAtItsStart : State.reset.pool.stateOf 5 = .unwritten ∧
    (mapped State.reset 5 .poisoned).pool.stateOf 5 = .poisoned ∧ (mapped State.reset 5 .good).pool.stateOf 5 = .good ∧
    (∀ g : Fin 16, (mapped State.reset 5 .good).pool.groupClass 5 g.val ≠ .uncorrectable) ∧
    ({ (mapped State.reset 5 .good).pool with wrong := [5760, 5761] } : Pool).groupClass 5 0 = .uncorrectable := by
  decide +kernel

/-- A block with one wrong bit in its first group and another in its last. -/
theorem meets_TransferAtItsStart_corrected : let P : Pool := { (mapped State.reset 5 .good).pool with wrong := [5760, 6911] };
    P.stateOf 5 = .good ∧ (∀ g : Fin 16, P.groupClass 5 g.val ≠ .uncorrectable) ∧
      ((List.finRange 16).filter fun g => P.groupClass 5 g.val = .correctable) = [0, 15] := by decide +kernel

theorem meets_PoolRequestWithdrawal :
    (holding .exec (some .abort) (some (.pool ⟨.load, 5, none⟩))).poolRequested 0 = true ∧
    ((holding .exec (some .abort) (some (.pool ⟨.load, 5, none⟩))).port 0).held = some .abort ∧
    ((holding .exec (some .portReset) (some (.pool ⟨.load, 5, none⟩))).port 0).held = some .portReset ∧
    State.reset.poolRequested 0 = false ∧ (State.reset.port 0).held = none ∧
    (let s : State := { State.reset with
        scrubber := ⟨0, 7, .requested, none⟩, arbiter := { Arbiter.reset with scrubReq := some 7, scrubWait := 16 } };
      s.scrubber.phase = .requested ∧ s.scrubber.interval = 0 ∧ s.arbiter.scrubReq.isSome) ∧
    ¬ (State.reset.scrubber.phase = .requested ∧ State.reset.scrubber.interval = 0 ∧ State.reset.arbiter.scrubReq.isSome) := by
  decide +kernel

theorem meets_EndOfAWrite : let x : Transfer := ⟨.port 0, .store, 511, none, none, Vector.replicate 128 1⟩;
    (moving State.reset x).pool.transfer = some x ∧ x.kind = .store ∧ State.reset.pool.transfer = none := by decide +kernel

theorem meets_EndOfARead :
    (∀ r ∈ [(ReadOutcome.checked (Vector.replicate 16 .clean), ReadResult.clean), (.blank, .blank), (.poisoned, .poisoned),
        (.checked (Vector.replicate 16 .correctable), .corrected 16),
        (.checked ((Vector.replicate 16 .correctable).set 15 .uncorrectable), .foundUncorrectable)],
      ({ reads .load none with read := some r.1 } : Transfer).readResult = r.2) ∧
    (5 : BlockNo) ∉ (List.range 5).map (BitVec.ofNat 9) ∧ (5 : BlockNo) ∈ (List.range 6).map (BitVec.ofNat 9) ∧
    ((List.range 16).map (BitVec.ofNat 9)).length = 16 := by decide +kernel

theorem meets_EndOfACopy : State.reset.pool.transfer = none ∧ (reads .copy (some 5)).kind = .copy ∧ (reads .copy (some 5)).dest = some 5 ∧
    (moving State.reset (reads .copy (some 511))).pool.transfer = some (reads .copy (some 511)) ∧
    ∀ r ∈ [(ReadOutcome.checked (Vector.replicate 16 .clean), ReadResult.clean), (.blank, .blank), (.poisoned, .poisoned),
        (.checked (Vector.replicate 16 .correctable), .corrected 16),
        (.checked ((Vector.replicate 16 .correctable).set 15 .uncorrectable), .foundUncorrectable)],
      ({ reads .copy (some 9) with read := some r.1 } : Transfer).readResult = r.2 := by decide +kernel

theorem meets_ResultAtAPortInExec : ∀ c ∈ [(Command.readBlocks, TransferKind.load), (.writeBlocks, .store), (.zeroBlocks, .zero),
      (.copyBlocks, .copy), (.verifyBlocks, .verify)], ∀ n ∈ [(1 : Byte), 2],
    let s := moving (running c.1 n .exec) (reads c.2 (some 9));
    s.pool.transfer = some (reads c.2 (some 9)) ∧ (reads c.2 (some 9)).requester = .port 0 ∧ (s.port 0).state = .exec ∧
      s.noneWaits ∧ (reads c.2 (some 9)).kind = c.2 ∧ (reads c.2 (some 9)).result = .success false ∧
      ({ reads c.2 (some 9) with read := some .blank } : Transfer).result = .failure .blank ∧
      (s.port 0).running = some ⟨c.1, .ascending⟩ ∧ (s.port 0).count = n := by decide +kernel

/-- Every port's request but that of port 0 waits, and the scrubber's. -/
def crowded (s : State) : State :=
  { s with arbiter := ⟨.rotate, 0, 3, (Vector.replicate 4 (some ⟨.zero, 5, none⟩)).set 0 none, some 0⟩ }

/-- The end of a transfer while other requests wait: the next grant is that of port 1. -/
theorem meets_ResultAtAPortInExec_waiting : let s := crowded (moving (running .readBlocks 1 .exec) (reads .load none));
    s.pool.transfer = some (reads .load none) ∧ (s.port 0).state = .exec ∧ ¬ s.noneWaits ∧
      (after .loadEnd s).inFlight 1 = true := by decide +kernel

theorem meets_TransferEndInAborting : ∀ h ∈ [HeldAction.abort, .portReset],
    let s := moving (holding .aborting (some h) none) (reads .load none);
    (s.port 0).state = .aborting ∧ (s.port 0).held = some h ∧ s.noneWaits ∧ s.pool.transfer = some (reads .load none) ∧
      ¬ (crowded s).noneWaits ∧ (after .loadEnd (crowded s)).inFlight 1 = true ∧ ((crowded s).port 0).held = some h := by
  decide +kernel

/-- Three wrong bits of group 0 of block 5. -/
theorem meets_WrittenBlockReadsBack : (0 : Fin 72) ≠ 71 ∧
    3 ≤ (({ Pool.powerOn with wrong := [5760, 5761, 5762] } : Pool).wrongBits 5 0).length := by decide +kernel

theorem meets_Reexamination : let w := waiting 1 .shared;
    (Lock.admitFrom none [w, waiting 2 .shared, waiting 3 .exclusive] (lockOf 0 .shared [(0, held)] [])).2 = [1, 2] ∧
      (Lock.admitFrom none [waiting 3 .exclusive, w] (lockOf 0 .free [] [])).2 = [3] := by decide +kernel

theorem meets_HostAccessKeepsOtherWindows : (Instr.portReset 0 2).hostPort = some 0 ∧ (1 : PortId) ≠ 0 ∧
    exec (.portReset 0 2) State.reset = .next (after (.portReset 0 2) State.reset) := ⟨rfl, by decide, rfl⟩

/-- Another port's command that a host's access ends, and a note that it finds. -/
theorem meets_HostAccessKeepsOtherWindows_changed :
    ((after (.release 0 .takenAtOnce) (asking 0 (lockOf 0 .exclusive [(0, held)] [waiting 1 .shared]))).port 1).done = true ∧
      ((after (.breakLock 0 .takenAtOnce) (asking 0 (lockOf 0 .shared [(1, held), (2, held)] [waiting 1 .upgrade]))).port 1).kind =
        .holdLost ∧
      ((after (.postNote 0 .takenAtOnce) (ready 2 1 0 0 0)).port 2).notes.length = 1 := by decide +kernel

theorem meets_RightsAndCoverageChangeOnlyBy :
    (after (.setRights 0 .takenAtOnce) (ready 3 1 0 0 0)).rights ≠ (ready 3 1 0 0 0).rights ∧
    ((after (.defineLock 0 .takenAtOnce) (ready 31 0 1 511 0)).lockAt 31).defined ≠ ((ready 31 0 1 511 0).lockAt 31).defined := by
  decide +kernel

theorem meets_PoolChangesOnlyBy : (mapped State.reset 511 .poisoned).pool.stateOf 511 ≠ .unwritten ∧
    Instr.tick ∉ [Instr.deviceReset, .loadEnd, .storeEnd, .zeroEnd, .copyEnd, .verifyEnd, .scrubEnd] ∧
    exec .tick State.reset = .next (after .tick State.reset) := ⟨by decide +kernel, by decide, rfl⟩

theorem meets_NoRequestWaitsWhileThePoolIsFree : State.reset.arbiter.choose = none ∧
    (after .tick State.reset).pool.transfer = none := by decide +kernel

/-- Port 0 holds lock 3 EXCLUSIVE under a lease, port 1 waits on it, a tick is in front of the queue. -/
def busy : State :=
  { (State.reset.onPort 1 fun q => { q with state := .waitLock, running := some ⟨.acquireShared, .ascending⟩ }).setLock 3
      (lockOf 1 .exclusive [(0, ⟨some 11⟩)] [⟨1, .shared, some 21⟩]) with
    pool := { Pool.powerOn with map := Pool.powerOn.map.set 7 .poisoned, faults := [7] }
    now := 4
    pending := [.tick] }

theorem meets_StepKeepsThePoolSound :
    busy.pool.sound ∧ busy.pool.goodKnown ∧ step busy = .next (after .tick { busy with pending := [] }) := by
  have hs : ∀ b : BlockNo, busy.pool.stateOf b = if b = 7 then .poisoned else .unwritten := fun b => by
    refine (Pool.stateOf_set Pool.powerOn 7 .poisoned b).trans ?_
    simp [Pool.stateOf, Pool.powerOn]
  refine ⟨⟨⟨.nil, fun _ h => nomatch h⟩, .nil, by decide +kernel, by decide +kernel, by decide +kernel⟩, fun b hb => ?_, rfl⟩
  rw [hs b] at hb
  split at hb <;> cases hb

theorem busy_table : busy.tableSound := by
  refine ⟨fun l => ?_, by decide +kernel⟩
  by_cases h : l = 3
  · subst h; exact record_sound (lockOf 1 .exclusive [(0, ⟨some 11⟩)] [⟨1, .shared, some 21⟩]) (by decide +kernel)
  · rw [(show ∀ l : LockId, l ≠ 3 → busy.lockAt l = Lock.reset by decide +kernel) l h]
    exact record_sound Lock.reset (by decide +kernel)

theorem busy_units : busy.unitsSound := by
  have idle : ∀ p : PortId, (busy.port p).outgoing = none := by decide +kernel
  refine ⟨fun p => ⟨?_, ?_, fun l f n e h => ?_, ?_⟩, by decide +kernel⟩
  · revert p; decide +kernel
  · have rest : (busy.port p).running = none ∧ (busy.port p).state = .ready ∨
        (busy.port p).running.isSome ∧ (busy.port p).state = .waitLock := by revert p; decide +kernel
    have quiet : (busy.port p).held = none ∧ (busy.port p).done = false ∧ (busy.port p).kind = .none := by revert p; decide +kernel
    rcases rest with ⟨hr, hs⟩ | ⟨hr, hs⟩ <;> simp [Port.sound, idle p, quiet, hr, hs]
  · rw [idle p] at h; cases h
  · revert p; decide +kernel

theorem meets_StepKeepsThePartSound : busy.sound ∧ step busy = .next (after .tick { busy with pending := [] }) :=
  ⟨⟨meets_StepKeepsThePoolSound.1, meets_StepKeepsThePoolSound.2.1, busy_table, busy_units⟩, rfl⟩

theorem meets_WaitersAndHolders : State.Reached State.reset ∧ State.Reached (after .tick State.reset) :=
  ⟨.powerOn, .command .tick .powerOn rfl⟩

theorem meets_WaitsForHasNoCycle : State.Reached (after (.acquireShared 0 .takenAtOnce) State.reset) :=
  .command (.acquireShared 0 .takenAtOnce) .powerOn rfl

end Sys2Proof.Tests
end

/-! # The pool: what keeps it sound -/

section
namespace Sys2Proof.Machine

/-! ## Addresses of a block's storage -/

/-- An address of block `c` lies in the storage of block `b` exactly if the blocks are one. -/
theorem storeAddr_mem_block (b c : BlockNo) {j : Nat} (hj : j < 144) :
    (storeAddr b 0 ≤ storeAddr c j ∧ storeAddr c j < storeAddr b 0 + Config.blockStorage) ↔ c = b := by
  constructor
  · intro h
    simp only [storeAddr, Config.blockStorage] at h
    exact BitVec.eq_of_toNat_eq (by omega)
  · rintro rfl
    simp only [storeAddr, Config.blockStorage]
    omega

theorem storeAddr_sub (b : BlockNo) (j : Nat) : storeAddr b j - storeAddr b 0 = j := by
  simp only [storeAddr]; omega

/-- An address that is no byte of block `b` lies outside its storage. -/
theorem storeAddr_outside {b : BlockNo} {a : Nat} (h : ∀ j < 144, a ≠ storeAddr b j) :
    ¬ (storeAddr b 0 ≤ a ∧ a < storeAddr b 0 + Config.blockStorage) := by
  rintro ⟨h₁, h₂⟩
  have e := h (a - storeAddr b 0) (by simp only [Config.blockStorage] at h₂; omega)
  simp only [storeAddr] at e h₁
  omega

/-! ## A block write -/

section writeBlock

variable (P : Pool) (b : BlockNo) (data : Bytes)

theorem Pool.byteAt?_writeBlock_self {j : Nat} (hj : j < 144) :
    Memory.byteAt? (P.writeBlock b data).mem (storeAddr b j) = (data.toList ++ checkBytes data)[j]? := by
  rw [Pool.byteAt?_writeBlock, if_pos ((storeAddr_mem_block b b hj).2 rfl), storeAddr_sub]

theorem Pool.byteAt?_writeBlock_data (j : Fin 128) :
    Memory.byteAt? (P.writeBlock b data).mem (storeAddr b j.val) = some data[j] := by
  have hj : j.val < data.toList.length := by simp
  rw [P.byteAt?_writeBlock_self b data (by omega), List.getElem?_append_left hj]
  simp

theorem Pool.byteAt?_writeBlock_check (g : Fin 16) :
    Memory.byteAt? (P.writeBlock b data).mem (storeAddr b (128 + g.val)) =
      some (Config.checkByte (wordOf fun i => data[8 * g.val + i]?.getD 0)) := by
  rw [P.byteAt?_writeBlock_self b data (by omega), List.getElem?_append_right (by simp)]
  simp [checkBytes]

theorem Pool.byteAt?_writeBlock_outside {a : Nat} (h : ∀ j < 144, a ≠ storeAddr b j) :
    Memory.byteAt? (P.writeBlock b data).mem a = Memory.byteAt? P.mem a := by
  rw [Pool.byteAt?_writeBlock, if_neg (storeAddr_outside h)]

/-- A block write leaves the block with the data and its check bytes, and every other byte and state as it was (R9). -/
theorem Pool.holdsAfter_writeBlock : P.holdsAfter (P.writeBlock b data) b data :=
  ⟨P.byteAt?_writeBlock_data b data, P.byteAt?_writeBlock_check b data, fun _ h => P.byteAt?_writeBlock_outside b data h,
    by simp, fun c hc => by simp [hc]⟩

end writeBlock

/-! ## What keeps the pool sound -/

/-- The pool's part of a sound state: its canonical form and fault list, and the bytes of GOOD blocks known. -/
abbrev Pool.intact (P : Pool) : Prop := P.sound ∧ P.goodKnown

/-- Two pools with the same stored bytes, wrong bits, block states and fault list. -/
abbrev Pool.sameStore (P Q : Pool) : Prop :=
  Q.mem = P.mem ∧ Q.wrong = P.wrong ∧ Q.map = P.map ∧ Q.faults = P.faults

theorem Pool.sameStore_refl (P : Pool) : P.sameStore P := ⟨rfl, rfl, rfl, rfl⟩

theorem Pool.sameStore_of_eq {P Q : Pool} (h : Q = P) : P.sameStore Q := h ▸ P.sameStore_refl

theorem Pool.sameStore.stateOf {P Q : Pool} (h : P.sameStore Q) (b : BlockNo) : Q.stateOf b = P.stateOf b := by
  obtain ⟨-, -, hmap, -⟩ := h
  simp only [Pool.stateOf, hmap]

theorem Pool.sameStore.intact {P Q : Pool} (h : P.sameStore Q) (hP : P.intact) : Q.intact := by
  unfold Pool.intact Pool.sound Pool.goodKnown
  simp only [h.stateOf]
  obtain ⟨hm, hw, -, hf⟩ := h
  rw [hm, hw, hf]
  exact hP

theorem Pool.intact_powerOn : Pool.powerOn.intact := by
  have h : ∀ b, Pool.powerOn.stateOf b = .unwritten := fun b => by simp [Pool.stateOf, Pool.powerOn]
  refine ⟨⟨Memory.wf_nil, .nil, .nil, by decide, fun b hb => nomatch hb⟩, fun b hb => ?_⟩
  rw [h] at hb
  cases hb

section intact

variable {P : Pool} (b : BlockNo)

theorem Pool.intact_writeBlock (data : Bytes) (h : P.intact) : (P.writeBlock b data).intact := by
  obtain ⟨⟨hm, hw, hn, hl, hp⟩, hg⟩ := h
  refine ⟨⟨P.wf_writeBlock b data hm, hw.sublist List.filter_sublist, hn.sublist List.filter_sublist,
    (List.length_filter_le _ _).trans hl, fun c hc => ?_⟩, fun c hc j hj => ?_⟩
  · simp only [Pool.writeBlock_faults, List.mem_filter, decide_eq_true_eq] at hc
    rw [Pool.stateOf_writeBlock, if_neg hc.2]
    exact hp c hc.1
  · by_cases e : c = b
    · subst e
      rw [P.byteAt?_writeBlock_self c data hj, List.getElem?_eq_getElem (by simpa using hj)]
      rfl
    · rw [Pool.stateOf_writeBlock, if_neg e] at hc
      rw [Pool.byteAt?_writeBlock, if_neg (mt (storeAddr_mem_block b c hj).1 e)]
      exact hg c hc j hj

/-- The fault list after an offer: still distinct and within its size, with at most the offered block new. -/
theorem Pool.offer_faults (h : P.faults.Nodup ∧ P.faults.length ≤ 16) :
    ((P.offer b).faults.Nodup ∧ (P.offer b).faults.length ≤ 16) ∧ ∀ c ∈ (P.offer b).faults, c = b ∨ c ∈ P.faults := by
  rcases P.offer_cases b with ⟨-, e⟩ | ⟨hb, hl, e⟩ | ⟨-, -, e⟩ <;> rw [e]
  · exact ⟨h, fun c hc => .inr hc⟩
  · refine ⟨⟨?_, by simpa using hl⟩, fun c hc => ?_⟩
    · exact List.nodup_append.2 ⟨h.1, by simp, fun x hx y hy => by
        rintro rfl
        exact hb (List.mem_singleton.1 hy ▸ hx)⟩
    · simpa [or_comm] using hc
  · exact ⟨h, fun c hc => .inr hc⟩

/-- Poisoning keeps the pool sound; what became unknown of the block does not matter. -/
theorem Pool.intact_poison (hs : P.sound) (hg : ∀ c, c ≠ b → P.stateOf c = .good → ∀ j < 144,
    (Memory.byteAt? P.mem (storeAddr c j)).isSome) : (P.poison b).intact := by
  obtain ⟨hm, hw, hn, hl, hp⟩ := hs
  obtain ⟨hf, hc⟩ := Pool.offer_faults (P := { P with map := P.map.set b.toNat .poisoned }) b ⟨hn, hl⟩
  refine ⟨⟨by rw [Pool.poison_mem]; exact hm, by rw [Pool.poison, Pool.offer_wrong]; exact hw, hf.1, hf.2,
    fun c h => ?_⟩, fun c h j hj => ?_⟩
  · rw [Pool.stateOf_poison]
    split
    · rfl
    · exact hp c ((hc c h).resolve_left ‹_›)
  · rw [Pool.stateOf_poison] at h
    split at h
    · cases h
    · rw [Pool.poison_mem]
      exact hg c ‹_› h j hj

theorem Pool.intact_poisonCut (h : P.intact) : (P.poisonCut b).intact := by
  obtain ⟨⟨hm, hw, hn, hl, hp⟩, hg⟩ := h
  refine Pool.intact_poison b ⟨Memory.wf_eraseRun _ _ _ hm, hw.sublist List.filter_sublist, hn, hl, hp⟩ fun c e hc j hj => ?_
  rw [Memory.byteAt?_eraseRun, if_neg (mt (storeAddr_mem_block b c hj).1 e)]
  exact hg c hc j hj

end intact

/-- The effects of a read at the end of its transfer keep the pool sound. -/
theorem Pool.intact_endRead {P : Pool} (t : Transfer) (h : P.intact) : (P.endRead t).intact := by
  simp only [Pool.endRead]
  split
  · exact h
  · exact Pool.sameStore.intact (P := P.writeBlock t.block t.data) ⟨rfl, rfl, rfl, rfl⟩ (Pool.intact_writeBlock _ _ h)
  · exact Pool.intact_poison _ h.1 fun c _ => h.2 c
  · exact h
  · exact h

/-- The effects of a transfer at its end keep the pool sound. -/
theorem Pool.intact_endTransfer {P : Pool} (t : Transfer) (h : P.intact) : (P.endTransfer t).intact := by
  simp only [Pool.endTransfer, Pool.endCopy]
  split
  · exact Pool.intact_endRead t h
  · exact Pool.intact_endRead t h
  · exact Pool.intact_endRead t h
  · exact Pool.intact_writeBlock _ _ h
  · exact Pool.intact_writeBlock _ _ h
  · split
    · exact Pool.intact_writeBlock _ _ (Pool.intact_endRead t h)
    · exact Pool.intact_endRead t h

theorem Pool.intact_foldl_poisonCut (bs : List BlockNo) {P : Pool} (h : P.intact) : (bs.foldl Pool.poisonCut P).intact := by
  induction bs generalizing P with
  | nil => exact h
  | cons b bs ih => exact ih (Pool.intact_poisonCut b h)

theorem Pool.intact_deviceReset {P : Pool} (h : P.intact) : P.deviceReset.intact := by
  simp only [Pool.deviceReset]
  split
  · exact h
  · exact Pool.sameStore.intact ⟨rfl, rfl, rfl, rfl⟩ (Pool.intact_foldl_poisonCut _ h)

/-! ## A disturbance -/

/-- Entering a number in a rising list, or taking it out, keeps the list rising. -/
theorem Pool.disturb.toggle_rising (n : Nat) {l : List Nat} (h : l.Pairwise (· < ·)) :
    (toggle n l).Pairwise (· < ·) ∧ ∀ x ∈ toggle n l, x = n ∨ x ∈ l := by
  induction l with
  | nil => simp [toggle]
  | cons x l ih =>
    obtain ⟨hx, hl⟩ := List.pairwise_cons.1 h
    obtain ⟨ih₁, ih₂⟩ := ih hl
    simp only [toggle]
    split
    · refine ⟨List.pairwise_cons.2 ⟨fun y hy => ?_, h⟩, fun y hy => by simpa using hy⟩
      rcases List.mem_cons.1 hy with rfl | hy
      · assumption
      · have := hx y hy; omega
    · split
      · exact ⟨hl, fun y hy => .inr (List.mem_cons_of_mem _ hy)⟩
      · refine ⟨List.pairwise_cons.2 ⟨fun y hy => ?_, ih₁⟩, fun y hy => ?_⟩
        · rcases ih₂ y hy with rfl | hy
          · omega
          · exact hx y hy
        · rcases List.mem_cons.1 hy with rfl | hy
          · simp
          · have := ih₂ y hy; simp; tauto

section disturb

variable (P : Pool) (b : BlockNo) (g : Fin 16) (k : Fin 72)

/-- The byte of a block's storage that holds bit `k` of group `g`: a data byte, or the check byte. -/
def groupByte (g : Fin 16) (k : Fin 72) : Nat := if k.val < 64 then 8 * g.val + k.val / 8 else 128 + g.val

theorem groupByte_lt : groupByte g k < 144 := by
  simp only [groupByte]; split <;> omega

theorem Pool.disturb_unknown (h : Memory.byteAt? P.mem (storeAddr b (groupByte g k)) = none) : P.disturb b g k = P := by
  simp only [groupByte] at h
  simp only [Pool.disturb, h]

theorem Pool.disturb_known {v : Byte} (h : Memory.byteAt? P.mem (storeAddr b (groupByte g k)) = some v) :
    P.disturb b g k = { P with
      mem := Memory.flipBit P.mem (storeAddr b (groupByte g k)) (k.val % 8)
      wrong := Pool.disturb.toggle (bitNumber b g k) P.wrong } := by
  simp only [groupByte] at h ⊢
  simp only [Pool.disturb, h]

/-- What a disturbance leaves at each address: the bit changed in its byte, if that is known (R2). -/
theorem Pool.byteAt?_disturb (a : Nat) :
    Memory.byteAt? (P.disturb b g k).mem a =
      if a = storeAddr b (groupByte g k) then (Memory.byteAt? P.mem a).map (· ^^^ (1#8 <<< (k.val % 8)))
      else Memory.byteAt? P.mem a := by
  cases h : Memory.byteAt? P.mem (storeAddr b (groupByte g k)) with
  | none =>
    rw [P.disturb_unknown b g k h]
    split <;> simp_all
  | some v => rw [P.disturb_known b g k h, Memory.byteAt?_flipBit]

theorem Pool.intact_disturb {P : Pool} (h : P.intact) : (P.disturb b g k).intact := by
  obtain ⟨⟨hwf, hrising, hn, hl, hp⟩, hg⟩ := h
  have hw : (P.disturb b g k).wrong.Pairwise (· < ·) := by
    cases e : Memory.byteAt? P.mem (storeAddr b (groupByte g k)) with
    | none => rw [P.disturb_unknown b g k e]; exact hrising
    | some v => rw [P.disturb_known b g k e]; exact (Pool.disturb.toggle_rising _ hrising).1
  have hm := P.wf_disturb b g k hwf
  have hb := P.byteAt?_disturb b g k
  rw [Pool.disturb_fields] at hb ⊢
  refine ⟨⟨hm, hw, hn, hl, hp⟩, fun c hc j hj => ?_⟩
  rw [hb]
  split
  · rw [Option.isSome_map]; exact hg c hc j hj
  · exact hg c hc j hj

end disturb

end Sys2Proof.Machine
end

/-! # What a command leaves of the pool -/

section
namespace Sys2Proof.Machine

/-! ## Operations in front of the pool -/

/-- All behind the port units and the lock table is as before: pool, arbiter, scrubber, rights, tick number and queue. -/
abbrev State.keepsBehind (s t : State) : Prop :=
  t.pool = s.pool ∧ t.arbiter = s.arbiter ∧ t.scrubber = s.scrubber ∧ t.rights = s.rights ∧ t.now = s.now ∧
    t.pending = s.pending

theorem State.keepsBehind.refl (s : State) : s.keepsBehind s := ⟨rfl, rfl, rfl, rfl, rfl, rfl⟩

theorem State.keepsBehind.trans {s t u : State} (h : s.keepsBehind t) (h' : t.keepsBehind u) : s.keepsBehind u := by
  obtain ⟨h₁, h₂, h₃, h₄, h₅, h₆⟩ := h
  obtain ⟨g₁, g₂, g₃, g₄, g₅, g₆⟩ := h'
  exact ⟨g₁.trans h₁, g₂.trans h₂, g₃.trans h₃, g₄.trans h₄, g₅.trans h₅, g₆.trans h₆⟩

theorem State.keepsBehind_complete (s : State) (p : PortId) (k : ErrorKind) : s.keepsBehind (s.complete p k) := .refl s

theorem State.keepsBehind_onPort (s : State) (p : PortId) (f : Port → Port) : s.keepsBehind (s.onPort p f) := .refl s

theorem State.keepsBehind_completeAll (s : State) (ps : List PortId) (k : ErrorKind) : s.keepsBehind (s.completeAll ps k) :=
  (s.completeAll_rest ps k).2

theorem State.keepsBehind_addLostAll (s : State) (ps : List PortId) (l : LockId) : s.keepsBehind (s.addLostAll ps l) :=
  (s.addLostAll_rest ps l).2

theorem State.keepsBehind_reexamine (s : State) (m : Moment) (l : LockId) : s.keepsBehind (s.reexamine m l) :=
  (s.reexamine_spec m l).2.2

section table

variable (s : State) (p : PortId) (l : LockId)

theorem State.keepsBehind_waitOrRefuse (m : Moment) (w : Wanted) (limit : Byte) :
    s.keepsBehind (s.waitOrRefuse m l p w limit) := by
  rcases s.waitOrRefuse_cases m l p w limit with ⟨-, h⟩ | ⟨-, -, h⟩ | ⟨-, -, h⟩ <;> rw [h] <;> exact .refl s

theorem State.keepsBehind_takeAcquire (w : Wanted) (limit : Byte) : s.keepsBehind (s.takeAcquire p l w limit) := by
  simp only [State.takeAcquire]
  split_ifs
  · exact .refl s
  · exact .refl s
  · exact .refl s
  · exact s.keepsBehind_waitOrRefuse p l _ w limit

theorem State.keepsBehind_takeUpgrade (limit : Byte) : s.keepsBehind (s.takeUpgrade p l limit) := by
  simp only [State.takeUpgrade]
  split_ifs
  · exact .refl s
  · exact .refl s
  · exact .refl s
  · exact .refl s
  · exact .refl s
  · exact s.keepsBehind_waitOrRefuse p l _ .upgrade limit

theorem State.keepsBehind_takeDowngrade : s.keepsBehind (s.takeDowngrade p l) := by
  simp only [State.takeDowngrade]
  split_ifs
  · exact .refl s
  · exact .refl s
  · exact State.keepsBehind_reexamine (s.setLock l _) _ l

theorem State.keepsBehind_takeRelease : s.keepsBehind (s.takeRelease p l) := by
  simp only [State.takeRelease]
  split_ifs
  · exact .refl s
  · exact .refl s
  · exact State.keepsBehind_reexamine (s.setLock l _) _ l

theorem State.keepsBehind_takeRenew : s.keepsBehind (s.takeRenew p l) := by
  simp only [State.takeRenew]
  split_ifs <;> exact .refl s

theorem State.keepsBehind_takeQuery : s.keepsBehind (s.takeQuery p l) := by
  simp only [State.takeQuery]
  split_ifs <;> exact .refl s

theorem State.keepsBehind_takeDefine (first : BlockNo) (count lease : Byte) :
    s.keepsBehind (s.takeDefine p l first count lease) := by
  simp only [State.takeDefine]
  split_ifs <;> exact .refl s

theorem State.keepsBehind_takeUndefine : s.keepsBehind (s.takeUndefine p l) := by
  simp only [State.takeUndefine]
  split_ifs <;> exact .refl s

theorem State.keepsBehind_takeBreak : s.keepsBehind (s.takeBreak p l) := by
  simp only [State.takeBreak]
  split_ifs
  · exact .refl s
  · exact ((State.keepsBehind_addLostAll (s.setLock l _) _ l).trans (State.keepsBehind_completeAll _ _ _)).trans
      (State.keepsBehind_reexamine _ _ l)

theorem State.keepsBehind_takePost (target : PortId) (code tag : Byte) : s.keepsBehind (s.takePost p target code tag) := by
  simp only [State.takePost]
  split_ifs <;> exact .refl s

theorem State.keepsBehind_portResetEffect (m : Moment) : s.keepsBehind (s.portResetEffect m p) := s.portResetEffect_rest m p

theorem State.keepsBehind_expireLease : s.keepsBehind (s.expireLease l p) := by
  simp only [State.expireLease]
  split
  · exact .refl s
  · split_ifs
    · exact State.keepsBehind_reexamine ((((s.setLock l _).onPort p _)).complete p _) _ l
    · exact State.keepsBehind_reexamine ((s.setLock l _).onPort p _) _ l
    · exact .refl s

theorem State.keepsBehind_timeoutWait : s.keepsBehind (s.timeoutWait l p) := by
  simp only [State.timeoutWait]
  split
  · exact .refl s
  · split_ifs
    · exact State.keepsBehind_reexamine ((s.setLock l _).complete p _) _ l
    · exact .refl s

theorem State.keepsBehind_withdrawEntry : s.keepsBehind (s.withdrawEntry p) := by
  simp only [State.withdrawEntry]
  split_ifs
  · split
    · exact .refl s
    · exact State.keepsBehind_reexamine ((s.setLock _ _).complete p _) _ _
  · exact .refl s

theorem State.keepsBehind_withdrawHanded : s.keepsBehind (s.withdrawHanded p) := by
  simp only [State.withdrawHanded]
  split
  · exact .refl s
  · exact s.keepsBehind_withdrawEntry p

end table

/-! ## The pool after a command -/

section store

variable (s : State) (p : PortId)

/-- A request taken by its block leaves the pool as it is: no block behind the port unit writes it. -/
theorem State.takeRequest_pool (r : HandedRequest) : (s.takeRequest p r).pool = s.pool := by
  cases r with
  | acquireShared l limit => exact (s.keepsBehind_takeAcquire p l .shared limit).1
  | acquireExclusive l limit => exact (s.keepsBehind_takeAcquire p l .exclusive limit).1
  | upgrade l limit => exact (s.keepsBehind_takeUpgrade p l limit).1
  | downgrade l => exact (s.keepsBehind_takeDowngrade p l).1
  | release l => exact (s.keepsBehind_takeRelease p l).1
  | renew l => exact (s.keepsBehind_takeRenew p l).1
  | queryLock l => exact (s.keepsBehind_takeQuery p l).1
  | defineLock l first count lease => exact (s.keepsBehind_takeDefine p l first count lease).1
  | undefineLock l => exact (s.keepsBehind_takeUndefine p l).1
  | breakLock l => exact (s.keepsBehind_takeBreak p l).1
  | setRights t give => rfl
  | setArbiter fixed => rfl
  | setScrub n =>
    simp only [State.takeRequest, State.takeSetScrub]
    split
    · rfl
    · rfl
    · split_ifs <;> rfl
    · rfl
  | postNote t code tag => exact (s.keepsBehind_takePost p t code tag).1

theorem State.arriveHanded_pool : (s.arriveHanded p).pool = s.pool := by
  simp only [State.arriveHanded]
  split
  · exact s.takeRequest_pool p _
  · rfl

/-- Of the commands only READ FAULT LIST touches the pool, and there the overflow mark and the count alone (R159). -/
theorem State.beginCommand_store (c : Command) : s.pool.sameStore (s.beginCommand p c).pool := by
  cases c with
  | readFaultList =>
    simp only [State.beginCommand, State.onPort_pool]
    split_ifs <;> exact ⟨rfl, rfl, rfl, rfl⟩
  | _ => exact s.pool.sameStore_refl

theorem State.acceptCommand_store (c : Option Command) : s.pool.sameStore (s.acceptCommand p c).pool := by
  rcases s.acceptCommand_cases p c with ⟨-, h⟩ | ⟨d, -, -, h⟩ | ⟨d, -, -, -, h⟩ | ⟨d, -, -, -, h⟩ <;> rw [h]
  · exact s.pool.sameStore_refl
  · exact s.pool.sameStore_refl
  · exact s.pool.sameStore_refl
  · exact State.beginCommand_store (s.onPort p Port.accept) p d

theorem State.writeCommand_store (c : Option Command) : s.pool.sameStore (s.writeCommand p c).pool := by
  simp only [State.writeCommand]
  split_ifs
  · exact s.acceptCommand_store p c
  · exact s.pool.sameStore_refl

theorem State.writeHanded_store (c : Command) (h : Handing) : s.pool.sameStore (s.writeHanded p c h).pool := by
  simp only [State.writeHanded]
  split_ifs
  · cases h with
    | takenAtOnce => simpa only [State.arriveHanded_pool] using s.acceptCommand_store p (some c)
    | outstanding => exact s.acceptCommand_store p (some c)
  · exact s.pool.sameStore_refl

theorem State.takeAbort_behind : s.keepsBehind (s.takeAbort p) := by
  simp only [State.takeAbort]
  split
  case h_5 => split_ifs <;> exact .refl s
  all_goals exact .refl s

theorem State.takePortReset_behind : s.keepsBehind (s.takePortReset p) := by
  simp only [State.takePortReset]
  split
  case h_5 =>
    split_ifs
    · exact .refl s
    · exact .refl s
    · exact s.keepsBehind_portResetEffect p _
  case h_6 => exact .refl s
  all_goals exact s.keepsBehind_portResetEffect p _

theorem State.writeControl_behind (v : Byte) : s.keepsBehind (s.writeControl p v) := by
  simp only [State.writeControl]
  split_ifs
  · exact s.takePortReset_behind p
  · exact s.takeAbort_behind p
  · exact .refl s

theorem State.writeWindow_store (o : Fin 16) (v : Byte) : s.pool.sameStore (s.writeWindow p o v).pool := by
  simp only [State.writeWindow]
  split
  case h_2 => exact s.writeCommand_store p _
  case h_3 => exact Pool.sameStore_of_eq (s.writeControl_behind p v).1
  all_goals exact s.pool.sameStore_refl

theorem State.grantAll_store (m : Moment) : s.pool.sameStore (s.grantAll m).pool := by
  rw [(s.grantAll_rest m).1]
  exact ⟨rfl, rfl, rfl, rfl⟩

theorem State.arrivePool_store : s.pool.sameStore (s.arrivePool p).pool := by
  simp only [State.arrivePool]
  split
  · exact State.grantAll_store _ _
  · exact s.pool.sameStore_refl

theorem State.requestScrub_store : s.pool.sameStore s.requestScrub.pool := by
  simp only [State.requestScrub]
  split_ifs
  · exact State.grantAll_store _ _
  · exact s.pool.sameStore_refl

theorem State.withdrawPool_pool : (s.withdrawPool p).pool = s.pool := by
  simp only [State.withdrawPool]
  split_ifs
  · split
    · rfl
    · rfl
    · exact (State.keepsBehind_portResetEffect _ p _).1
  · rfl

theorem State.withdrawScrubRequest_pool : s.withdrawScrubRequest.pool = s.pool := by
  simp only [State.withdrawScrubRequest]
  split_ifs <;> rfl

/-- The end of a transfer: the pool after its effects, with the next grant's transfer in flight if there is one. -/
theorem State.endOf_pool {kind : TransferKind} {x : Transfer} (hx : s.pool.transfer = some x) (hk : x.kind = kind) :
    (s.endOf kind).pool = { s.pool.endTransfer x with transfer := (s.endOf kind).pool.transfer } := by
  simp only [State.endOf, hx, hk, if_true]
  rw [(State.grantAll_rest _ _).1]
  split
  · rw [(State.deliver_rest _ _ _ _).1]
  · rfl

/-- Without a transfer of its kind in flight the end of a transfer has no effect. -/
theorem State.endOf_eq_self {kind : TransferKind} (h : ∀ x : Transfer, s.pool.transfer = some x → x.kind ≠ kind) :
    s.endOf kind = s := by
  simp only [State.endOf]
  split
  · rfl
  · rename_i x hx
    rw [if_neg (h x hx)]

/-- The end of a transfer leaves the pool as it is, or with the effects of the transfer that was in flight. -/
theorem State.endOf_store (kind : TransferKind) :
    s.pool.sameStore (s.endOf kind).pool ∨ ∃ x : Transfer, (s.pool.endTransfer x).sameStore (s.endOf kind).pool := by
  by_cases h : ∃ x, s.pool.transfer = some x ∧ x.kind = kind
  · obtain ⟨x, hx, hk⟩ := h
    refine .inr ⟨x, ?_⟩
    rw [s.endOf_pool hx hk]
    exact ⟨rfl, rfl, rfl, rfl⟩
  · rw [s.endOf_eq_self fun x hx hk => h ⟨x, hx, hk⟩]
    exact .inl s.pool.sameStore_refl

end store

/-- The six events at which a transfer ends. -/
def transferEnds : List Instr := [.loadEnd, .storeEnd, .zeroEnd, .copyEnd, .verifyEnd, .scrubEnd]

/-- What a command can do to the stored bytes, the map and the fault list: nothing, or it is power-on, device reset, a
disturbance, or the end of a transfer. -/
theorem exec_pool_cases {i : Instr} {s t : State} (h : exec i s = .next t) :
    s.pool.sameStore t.pool ∨ (i = .powerOn ∧ t.pool = Pool.powerOn) ∨
      (i = .deviceReset ∧ t.pool = s.pool.deviceReset) ∨
      (∃ b g k, i = .storedBitDisturbance b g k ∧ t.pool = s.pool.disturb b g k) ∨
      (i ∈ transferEnds ∧ ∃ x : Transfer, (s.pool.endTransfer x).sameStore t.pool) := by
  have kept : t.pool = s.pool → s.pool.sameStore t.pool := Pool.sameStore_of_eq
  cases i <;> cases h
  case readBlocks p | writeBlocks p | copyBlocks p | zeroBlocks p | verifyBlocks p | readFaultList p | identify p =>
    exact .inl (s.writeCommand_store p _)
  case badCommand p code => exact .inl (s.writeCommand_store p _)
  case acquireShared p h | acquireExclusive p h | upgrade p h | downgrade p h | release p h | renew p h | queryLock p h
      | defineLock p h | undefineLock p h | breakLock p h | setRights p h | setArbiter p h | setScrub p h | postNote p h =>
    exact .inl (s.writeHanded_store p _ h)
  case abort p v | portReset p v => exact .inl (kept (s.writeControl_behind p v).1)
  case dataRead | dataWrite | statusRead | notePop | lostWrite | irqenWrite | tick => exact .inl s.pool.sameStore_refl
  case registerWrite p o v => exact .inl (s.writeWindow_store p o v)
  case powerOn => exact .inr (.inl ⟨rfl, rfl⟩)
  case deviceReset => exact .inr (.inr (.inl ⟨rfl, rfl⟩))
  case leaseExpiry l p => exact .inl (kept (s.keepsBehind_expireLease p l).1)
  case waitTimeout l p => exact .inl (kept (s.keepsBehind_timeoutWait p l).1)
  case scrubRequest => exact .inl s.requestScrub_store
  case poolGrant => exact .inl (s.grantAll_store _)
  case loadEnd | storeEnd | zeroEnd | copyEnd | verifyEnd | scrubEnd =>
    exact (s.endOf_store _).imp_right fun h => .inr (.inr (.inr ⟨by decide, h⟩))
  case lockEntryWithdrawal p => exact .inl (kept (s.keepsBehind_withdrawEntry p).1)
  case poolRequestWithdrawal r =>
    cases r with
    | port p => exact .inl (kept (s.withdrawPool_pool p))
    | scrubber => exact .inl (kept s.withdrawScrubRequest_pool)
  case tablePortReset p =>
    refine .inl (kept ?_)
    split_ifs
    · rfl
    · exact (s.keepsBehind_portResetEffect p _).1
  case storedBitDisturbance b g k => exact .inr (.inr (.inr (.inl ⟨b, g, k, rfl, rfl⟩)))
  case handedRequestArrival p => exact .inl (kept (s.arriveHanded_pool p))
  case handedRequestWithdrawal p => exact .inl (kept (s.keepsBehind_withdrawHanded p).1)
  case poolRequestArrival p => exact .inl (s.arrivePool_store p)

/-- Every command keeps the pool sound. -/
theorem exec_keeps_intact {i : Instr} {s t : State} (h : exec i s = .next t) (hs : s.pool.intact) : t.pool.intact := by
  rcases exec_pool_cases h with h | ⟨-, h⟩ | ⟨-, h⟩ | ⟨b, g, k, -, h⟩ | ⟨-, x, h⟩
  · exact h.intact hs
  · rw [h]; exact Pool.intact_powerOn
  · rw [h]; exact Pool.intact_deviceReset hs
  · rw [h]; exact Pool.intact_disturb b g k hs
  · exact h.intact (Pool.intact_endTransfer x hs)

/-- What every command keeps, a step keeps: the idle step changes nothing, and the queue is not part of what is kept. -/
theorem step_keeps {I : State → Prop} (queue : ∀ (s : State) (q : List Instr), I s → I { s with pending := q })
    (cmd : ∀ (i : Instr) (s t : State), I s → exec i s = .next t → I t) {s t : State} (hs : I s) (h : step s = .next t) :
    I t := by
  unfold step at h
  split at h
  · cases h; exact hs
  · exact cmd _ _ _ (queue s _ hs) h

/-! ## The statements -/

/-- Settles O57: each of the pool's operations keeps it sound, and a command is one of them or leaves the store as it is. -/
theorem stepKeepsThePoolSound : Obligations.StepKeepsThePoolSound := by
  intro s t hs hg h
  exact step_keeps (I := fun s => s.pool.intact) (fun _ _ h => h) (fun _ _ _ hs h => exec_keeps_intact h hs) ⟨hs, hg⟩ h

end Sys2Proof.Machine
end

/-! # Power-on, device reset, and the ends of transfers at the pool -/

section
namespace Sys2Proof.Machine

/-! ## What alone unwrites a block -/

section unwritten

variable (P : Pool) (c : BlockNo)

theorem Pool.poison_keeps_written (b : BlockNo) (h : P.stateOf c ≠ .unwritten) : (P.poison b).stateOf c ≠ .unwritten := by
  rw [Pool.stateOf_poison]
  split
  · decide
  · exact h

theorem Pool.writeBlock_keeps_written (b : BlockNo) (data : Bytes) (h : P.stateOf c ≠ .unwritten) :
    (P.writeBlock b data).stateOf c ≠ .unwritten := by
  rw [Pool.stateOf_writeBlock]
  split
  · decide
  · exact h

theorem Pool.endRead_keeps_written (t : Transfer) (h : P.stateOf c ≠ .unwritten) : (P.endRead t).stateOf c ≠ .unwritten := by
  simp only [Pool.endRead]
  split
  · exact h
  · exact P.writeBlock_keeps_written c t.block t.data h
  · exact P.poison_keeps_written c _ h
  · exact h
  · exact h

theorem Pool.endTransfer_keeps_written (t : Transfer) (h : P.stateOf c ≠ .unwritten) :
    (P.endTransfer t).stateOf c ≠ .unwritten := by
  simp only [Pool.endTransfer, Pool.endCopy]
  split
  case h_6 =>
    split
    · exact Pool.writeBlock_keeps_written _ c _ _ (P.endRead_keeps_written c t h)
    · exact P.endRead_keeps_written c t h
  case h_4 | h_5 => exact P.writeBlock_keeps_written c _ _ h
  all_goals exact P.endRead_keeps_written c t h

end unwritten

/-! ## A cut transfer -/

section cut

variable (P : Pool) (bs : List BlockNo)

/-- The blocks of a cut write set are POISONED, every other block keeps its state (R17). -/
theorem Pool.stateOf_cutAll (c : BlockNo) :
    (bs.foldl Pool.poisonCut P).stateOf c = if c ∈ bs then .poisoned else P.stateOf c := by
  induction bs generalizing P with
  | nil => simp
  | cons b bs ih =>
    rw [List.foldl_cons, ih, Pool.stateOf_poisonCut]
    by_cases hb : c = b <;> by_cases hm : c ∈ bs <;> simp [hb, hm]

/-- The bytes of a cut write set are unknown, those of every other block are kept (R17). -/
theorem Pool.byteAt?_cutAll (c : BlockNo) {j : Nat} (hj : j < 144) :
    Memory.byteAt? (bs.foldl Pool.poisonCut P).mem (storeAddr c j) =
      if c ∈ bs then none else Memory.byteAt? P.mem (storeAddr c j) := by
  induction bs generalizing P with
  | nil => simp
  | cons b bs ih =>
    rw [List.foldl_cons, ih, Pool.byteAt?_poisonCut]
    simp only [storeAddr_mem_block b c hj, List.mem_cons]
    by_cases hb : c = b <;> by_cases hm : c ∈ bs <;> simp [hb, hm]

/-- A device reset leaves no transfer in flight. -/
theorem Pool.deviceReset_transfer : P.deviceReset.transfer = none := by
  simp only [Pool.deviceReset]
  split
  · assumption
  · rfl

/-- One offer, as the fault list and the overflow mark show it (R13). -/
def offerTo (o : List BlockNo × Bool) (b : BlockNo) : List BlockNo × Bool :=
  if b ∈ o.1 then o else if o.1.length < 16 then (o.1 ++ [b], o.2) else (o.1, true)

theorem Pool.faults_offer (b : BlockNo) :
    ((P.offer b).faults, (P.offer b).overflow) = offerTo (P.faults, P.overflow) b := by
  simp only [Pool.offer, offerTo, Config.faultListSize]
  split_ifs <;> rfl

theorem Pool.faults_poisonCut (b : BlockNo) :
    ((P.poisonCut b).faults, (P.poisonCut b).overflow) = offerTo (P.faults, P.overflow) b :=
  Pool.faults_offer _ b

theorem Pool.faults_cutAll :
    ((bs.foldl Pool.poisonCut P).faults, (bs.foldl Pool.poisonCut P).overflow) = bs.foldl offerTo (P.faults, P.overflow) := by
  induction bs generalizing P with
  | nil => rfl
  | cons b bs ih => rw [List.foldl_cons, List.foldl_cons, ih, Pool.faults_poisonCut]

theorem Pool.cutAll_corrected : (bs.foldl Pool.poisonCut P).corrected = P.corrected := by
  induction bs generalizing P with
  | nil => rfl
  | cons b bs ih =>
    rw [List.foldl_cons, ih]
    exact Pool.offer_corrected _ b

theorem Pool.deviceReset_corrected : P.deviceReset.corrected = P.corrected := by
  simp only [Pool.deviceReset]
  split
  · rfl
  · exact Pool.cutAll_corrected _ _

/-- An offer appends at most the offered block, and leaves it in the list or the mark set. -/
theorem offerTo_spec (o : List BlockNo × Bool) (b : BlockNo) :
    (∃ added, (offerTo o b).1 = o.1 ++ added ∧ ∀ c ∈ added, c = b) ∧ (o.2 = true → (offerTo o b).2 = true) ∧
      (b ∈ (offerTo o b).1 ∨ (offerTo o b).2 = true) := by
  simp only [offerTo]
  split_ifs with h
  · exact ⟨⟨[], by simp⟩, id, .inl h⟩
  · exact ⟨⟨[b], by simp⟩, id, .inl (by simp)⟩
  · exact ⟨⟨[], by simp⟩, fun _ => rfl, .inr rfl⟩

/-- Several offers: the list grows by some of the offered blocks, and each of them is in it or the mark is set. -/
theorem foldl_offerTo (bs : List BlockNo) (o : List BlockNo × Bool) :
    (∃ added, (bs.foldl offerTo o).1 = o.1 ++ added ∧ ∀ c ∈ added, c ∈ bs) ∧
      (o.2 = true → (bs.foldl offerTo o).2 = true) ∧
      ∀ b ∈ bs, b ∈ (bs.foldl offerTo o).1 ∨ (bs.foldl offerTo o).2 = true := by
  induction bs generalizing o with
  | nil => exact ⟨⟨[], by simp⟩, id, fun b hb => nomatch hb⟩
  | cons b bs ih =>
    obtain ⟨⟨one, h₁, honly⟩, hmark, hin⟩ := offerTo_spec o b
    obtain ⟨⟨rest, h₂, hrest⟩, hmark', hin'⟩ := ih (offerTo o b)
    rw [List.foldl_cons]
    refine ⟨⟨one ++ rest, by rw [h₂, h₁, List.append_assoc], fun c hc => ?_⟩, hmark' ∘ hmark, fun c hc => ?_⟩
    · rcases List.mem_append.1 hc with hc | hc
      · exact honly c hc ▸ List.mem_cons_self
      · exact List.mem_cons_of_mem _ (hrest c hc)
    · rcases List.mem_cons.1 hc with rfl | hc
      · rcases hin with h | h
        · exact .inl (h₂ ▸ List.mem_append_left _ h)
        · exact .inr (hmark' h)
      · exact hin' c hc

end cut

/-- The write set of a copy (R4, R17): nothing when its read fails, else the destination, and the source too when the read
was corrected. -/
theorem Transfer.writeSet_copy {x : Transfer} (hk : x.kind = .copy) :
    (∀ d, x.dest = some d → x.result = .success false → x.writeSet = [d]) ∧
      (∀ d, x.dest = some d → x.result = .success true → x.writeSet = [x.block, d] ∨ x.writeSet = [d, x.block]) ∧
      ((∀ m, x.result ≠ .success m) → x.writeSet = []) := by
  refine ⟨fun d hd hr => ?_, fun d hd hr => ?_, fun hr => ?_⟩
  · simp only [Transfer.writeSet, hk, hd, hr]
  · simp only [Transfer.writeSet, hk, hd, hr]
    split_ifs <;> simp
  · cases h : x.result with
    | success m => exact absurd h (hr m)
    | failure k => simp only [Transfer.writeSet, hk, h]

/-- The write set of a load, a verify or a scrub (R4): the block, if its read was corrected. -/
theorem Transfer.writeSet_read {x : Transfer} (hk : x.kind = .load ∨ x.kind = .verify ∨ x.kind = .scrub) :
    x.writeSet = if x.result = .success true then [x.block] else [] := by
  rcases hk with hk | hk | hk <;> simp only [Transfer.writeSet, hk]
  all_goals
    split
    · rw [if_pos ‹_›]
    · rw [if_neg ‹_›]

/-! ## The effects of a read, of a write and of a copy -/

section ends

variable (P : Pool) (b : BlockNo) (data : Bytes)

/-- Block `b` became POISONED and was offered to the fault list; every other state, the stored bytes and the count are kept
(R8, R13). -/
abbrev Pool.poisonedAfter (P Q : Pool) (b : BlockNo) : Prop :=
  Q.stateOf b = .poisoned ∧ (∀ c : BlockNo, c ≠ b → Q.stateOf c = P.stateOf c) ∧
    (∀ a : Nat, Memory.byteAt? Q.mem a = Memory.byteAt? P.mem a) ∧ Q.corrected = P.corrected ∧
    (b ∈ P.faults → Q.faults = P.faults ∧ Q.overflow = P.overflow) ∧
    (b ∉ P.faults → P.faults.length < 16 → Q.faults = P.faults ++ [b] ∧ Q.overflow = P.overflow) ∧
    (b ∉ P.faults → 16 ≤ P.faults.length → Q.faults = P.faults ∧ Q.overflow = true)

theorem Pool.poisonedAfter_poison : P.poisonedAfter (P.poison b) b := by
  refine ⟨by simp [Pool.stateOf_poison], fun c hc => by rw [Pool.stateOf_poison, if_neg hc], fun a => by rw [Pool.poison_mem],
    Pool.offer_corrected _ b, ?_⟩
  simp only [Pool.poison]
  rcases Pool.offer_cases { P with map := P.map.set b.toNat .poisoned } b with ⟨h, e⟩ | ⟨h, hl, e⟩ | ⟨h, hl, e⟩ <;> rw [e]
  · exact ⟨fun _ => ⟨rfl, rfl⟩, fun hn => absurd h hn, fun hn => absurd h hn⟩
  · exact ⟨fun hi => absurd hi h, fun _ _ => ⟨rfl, rfl⟩, fun _ h16 => absurd hl (Nat.not_lt.2 h16)⟩
  · exact ⟨fun hi => absurd hi h, fun _ h16 => absurd h16 (Nat.not_lt.2 hl), fun _ _ => ⟨rfl, rfl⟩⟩

/-- Block `b` is GOOD and holds `data` with its check bytes. -/
abbrev Pool.holdsData (P : Pool) (b : BlockNo) (data : Bytes) : Prop :=
  P.stateOf b = .good ∧ (∀ j : Fin 128, Memory.byteAt? P.mem (storeAddr b j.val) = some data[j]) ∧
    ∀ g : Fin 16, Memory.byteAt? P.mem (storeAddr b (128 + g.val)) =
      some (Config.checkByte (wordOf fun i => data[8 * g.val + i]?.getD 0))

theorem Pool.holdsData_writeBlock : (P.writeBlock b data).holdsData b data :=
  ⟨by simp, P.byteAt?_writeBlock_data b data, P.byteAt?_writeBlock_check b data⟩

/-- A write of the same data to another block leaves a block with it as it is. -/
theorem Pool.holdsData.writeBlock {P : Pool} {b : BlockNo} {data : Bytes} (h : P.holdsData b data) (d : BlockNo) :
    (P.writeBlock d data).holdsData b data := by
  by_cases e : b = d
  · exact e ▸ P.holdsData_writeBlock b data
  · have out : ∀ j < 144, ∀ i < 144, storeAddr b j ≠ storeAddr d i := fun j hj i hi ha => e (storeAddr_inj hj hi ha).1
    obtain ⟨hs, hd, hc⟩ := h
    refine ⟨by simp [hs], fun j => ?_, fun g => ?_⟩
    · rw [P.byteAt?_writeBlock_outside d data (out j.val (by omega))]; exact hd j
    · rw [P.byteAt?_writeBlock_outside d data (out (128 + g.val) (by omega))]; exact hc g

variable (x : Transfer)

/-- The effects of a read at its end, by its result (R5 to R8, R14). -/
theorem Pool.endRead_cases :
    (x.readResult = .clean ∨ x.readResult = .blank ∨ x.readResult = .poisoned → P.endRead x = P) ∧
      (∀ n, x.readResult = .corrected n → P.endRead x = (P.writeBlock x.block x.data).countCorrected n) ∧
      (x.readResult = .foundUncorrectable → P.endRead x = P.poison x.block) := by
  refine ⟨?_, fun n h => ?_, fun h => ?_⟩
  · rintro (h | h | h) <;> simp only [Pool.endRead, h]
  · simp only [Pool.endRead, h]
  · simp only [Pool.endRead, h]

theorem Pool.endTransfer_read {x : Transfer} (hk : x.kind = .load ∨ x.kind = .verify ∨ x.kind = .scrub) :
    P.endTransfer x = P.endRead x := by
  rcases hk with hk | hk | hk <;> simp only [Pool.endTransfer, hk]

theorem Pool.endTransfer_write {x : Transfer} (hk : x.kind = .store ∨ x.kind = .zero) :
    P.endTransfer x = P.writeBlock x.block x.data := by
  rcases hk with hk | hk <;> simp only [Pool.endTransfer, hk]

/-- The effects of a copy at its end: those of its read, and the write of the destination unless the read failed (R11). -/
theorem Pool.endTransfer_copy {x : Transfer} {d : BlockNo} (hk : x.kind = .copy) (hd : x.dest = some d) :
    (x.readResult = .clean → P.endTransfer x = P.writeBlock d x.data) ∧
      (∀ n, x.readResult = .corrected n →
        P.endTransfer x = ((P.writeBlock x.block x.data).countCorrected n).writeBlock d x.data) ∧
      (x.readResult = .blank ∨ x.readResult = .poisoned → P.endTransfer x = P) ∧
      (x.readResult = .foundUncorrectable → P.endTransfer x = P.poison x.block) := by
  obtain ⟨hsame, hcorr, hpois⟩ := P.endRead_cases x
  simp only [Pool.endTransfer, hk, Pool.endCopy, hd, Transfer.result]
  refine ⟨fun h => ?_, fun n h => ?_, ?_, fun h => ?_⟩
  · simp only [h, hsame (.inl h)]
  · simp only [h, hcorr n h]
  · rintro (h | h)
    · simp only [h, hsame (.inr (.inl h))]
    · simp only [h, hsame (.inr (.inr h))]
  · simp only [h, hpois h]

end ends

/-- The command at which a transfer of a kind ends is the end of that kind. -/
theorem exec_transferEnd (s : State) : ∀ i ∈ [(Instr.loadEnd, TransferKind.load), (.storeEnd, .store), (.zeroEnd, .zero),
    (.copyEnd, .copy), (.verifyEnd, .verify), (.scrubEnd, .scrub)], exec i.1 s = .next (s.endOf i.2) := by
  simp only [List.forall_mem_cons, List.not_mem_nil, false_implies, implies_true, and_true]
  exact ⟨rfl, rfl, rfl, rfl, rfl, rfl⟩

/-! ## The statements -/

/-- Settles O55, by what each command can do to the pool. -/
theorem poolChangesOnlyBy : Obligations.PoolChangesOnlyBy := by
  intro i s t h hi
  rcases exec_pool_cases h with h | ⟨e, -⟩ | ⟨e, h⟩ | ⟨b, g, k, e, h⟩ | ⟨e, x, h⟩
  · obtain ⟨hmem, -, hmap, hfaults⟩ := id h
    exact ⟨fun b hb => by rwa [h.stateOf], fun _ => ⟨hmap, hfaults, fun _ a => by rw [hmem]⟩⟩
  · exact absurd e hi
  · refine ⟨fun b hb => ?_, fun hn => absurd (e ▸ List.mem_cons_self) hn⟩
    rw [h]
    simp only [Pool.deviceReset]
    split
    · exact hb
    · rename_i x _
      show (x.writeSet.foldl Pool.poisonCut s.pool).stateOf b ≠ .unwritten
      rw [Pool.stateOf_cutAll]
      split
      · decide
      · exact hb
  · rw [Pool.disturb_fields] at h
    rw [h]
    exact ⟨fun _ hb => hb, fun _ => ⟨rfl, rfl, fun hn => absurd e (hn b g k)⟩⟩
  · refine ⟨fun b hb => ?_, fun hn => absurd (List.mem_cons_of_mem _ e) hn⟩
    rw [h.stateOf]
    exact s.pool.endTransfer_keeps_written b x hb

/-- Settles O46, by the effects of a write on the bytes, the map and the fault list. -/
theorem endOfAWrite : Obligations.EndOfAWrite := by
  intro s i hi
  have hx : exec i.1 s = .next (s.endOf i.2) := exec_transferEnd s i (by simp at hi ⊢; tauto)
  refine ⟨fun x ht hk => ⟨s.endOf i.2, hx, ?_⟩, fun h => by rw [hx, s.endOf_eq_self h]⟩
  have hw : x.kind = .store ∨ x.kind = .zero := by simp at hi; rcases hi with rfl | rfl <;> simp [hk]
  rw [s.endOf_pool ht hk, Pool.endTransfer_write _ hw]
  exact ⟨s.pool.holdsAfter_writeBlock x.block x.data, rfl, rfl, rfl⟩

/-- Settles O47, by the result of the read. -/
theorem endOfARead : Obligations.EndOfARead := by
  intro s i hi
  have hx : exec i.1 s = .next (s.endOf i.2) := exec_transferEnd s i (by simp at hi ⊢; tauto)
  refine ⟨fun x ht hk => ⟨s.endOf i.2, hx, ?_⟩, fun h => by rw [hx, s.endOf_eq_self h]⟩
  have hr : x.kind = .load ∨ x.kind = .verify ∨ x.kind = .scrub := by simp at hi; rcases hi with rfl | rfl | rfl <;> simp [hk]
  have hp := s.endOf_pool ht hk
  rw [Pool.endTransfer_read _ hr] at hp
  obtain ⟨hsame, hcorr, hpois⟩ := s.pool.endRead_cases x
  refine ⟨fun h => by rw [hsame h] at hp; exact hp, fun n h => ?_, fun h => ?_⟩
  · rw [hp, hcorr n h]
    exact ⟨s.pool.holdsAfter_writeBlock x.block x.data, rfl, rfl, Pool.countCorrected_toNat _ n⟩
  · rw [hp, hpois h]
    exact s.pool.poisonedAfter_poison x.block

/-- Settles O48, by the result of the read. -/
theorem endOfACopy : Obligations.EndOfACopy := by
  refine ⟨fun s h => congrArg Host.Outcome.next (s.endOf_eq_self h), fun s x d ht hk hd => ⟨s.endOf .copy, rfl, ?_⟩⟩
  have hp := s.endOf_pool ht hk
  obtain ⟨hclean, hcorr, hsame, hpois⟩ := s.pool.endTransfer_copy hk hd
  refine ⟨fun h => ?_, fun n h => ?_, fun h => by rw [hsame h] at hp; exact hp, fun h => ?_⟩
  · rw [hp, hclean h]
    exact ⟨s.pool.holdsAfter_writeBlock d x.data, rfl, rfl, rfl⟩
  · rw [hp, hcorr n h]
    have hsrc : ((s.pool.writeBlock x.block x.data).countCorrected n).holdsData x.block x.data :=
      s.pool.holdsData_writeBlock x.block x.data
    refine ⟨fun b hb => ?_, fun a ha => ?_, fun c hb hc => ?_, ?_, rfl, Pool.countCorrected_toNat _ n⟩
    · rcases List.mem_cons.1 hb with rfl | hb
      · exact hsrc.writeBlock d
      · rw [List.mem_singleton.1 hb]
        exact Pool.holdsData_writeBlock _ d x.data
    · exact (Pool.byteAt?_writeBlock_outside _ d x.data (ha d (by simp))).trans
        (s.pool.byteAt?_writeBlock_outside x.block x.data (ha x.block (by simp)))
    · refine (Pool.stateOf_writeBlock _ d x.data c).trans ?_
      rw [if_neg hc]
      exact (s.pool.stateOf_writeBlock x.block x.data c).trans (if_neg hb)
    · show ((s.pool.faults.filter _).filter _) = _
      rw [List.filter_filter]
      congr 1
      funext b
      simp [and_comm]
  · rw [hp, hpois h]
    exact s.pool.poisonedAfter_poison x.block

/-- Settles O39: the byte of the bit is flipped there, and a disturbance leaves the rest of the pool. -/
theorem disturbanceChangesOneStoredBit : Obligations.DisturbanceChangesOneStoredBit := by
  intro s b g k
  refine ⟨{ s with pool := s.pool.disturb b g k }, rfl, ?_, fun c hc => ?_, s.pool.disturb_fields b g k,
    fun _ _ => rfl, fun _ _ => rfl, rfl, rfl, rfl, rfl, rfl, rfl⟩
  · exact (s.pool.byteAt?_disturb b g k _).trans (if_pos rfl)
  · exact (s.pool.byteAt?_disturb b g k c).trans (if_neg hc)

/-- Settles O38: a device reset is the reset state with the pool's own reset, and that cuts the write set block by block. -/
theorem powerOnAndDeviceReset : Obligations.PowerOnAndDeviceReset := by
  refine ⟨fun s => ⟨rfl, s.resetDevice, rfl, rfl, rfl, rfl, rfl, rfl, rfl, rfl,
      s.pool.deviceReset_transfer, s.pool.deviceReset_corrected⟩,
    fun s => ⟨s.resetDevice, rfl, fun h => by simp only [State.resetDevice, Pool.deviceReset, h], fun x hx => ?_⟩⟩
  have hp : s.resetDevice.pool = { x.writeSet.foldl Pool.poisonCut s.pool with transfer := none } := by
    simp only [State.resetDevice, Pool.deviceReset, hx]
  have hlist := s.pool.faults_cutAll x.writeSet
  obtain ⟨⟨added, hadd, honly⟩, -, hin⟩ := foldl_offerTo x.writeSet (s.pool.faults, s.pool.overflow)
  rw [← hlist] at hadd hin
  rw [hp]
  refine ⟨fun hk => ?_, fun d hk hd hr => (Transfer.writeSet_copy hk).1 d hd hr, fun d c hk hd hr => ?_,
    fun hk hr => (Transfer.writeSet_copy hk).2.2 hr, fun hk hr => (Transfer.writeSet_read hk).trans (if_pos hr),
    fun hk hr => (Transfer.writeSet_read hk).trans (if_neg hr), fun b hb => ⟨?_, fun j hj => ?_, hin b hb⟩,
    fun b hb => ⟨?_, fun j hj => ?_⟩, hlist, fun h => by rw [h]; exact ⟨rfl, rfl⟩, added, hadd, honly⟩
  · rcases hk with hk | hk <;> simp only [Transfer.writeSet, hk]
  · have h := (Transfer.writeSet_copy hk).2.1 d hd hr
    refine ⟨?_, h⟩
    rcases h with h | h <;> simp [h, or_comm]
  · exact (s.pool.stateOf_cutAll x.writeSet b).trans (if_pos hb)
  · exact (s.pool.byteAt?_cutAll x.writeSet b hj).trans (if_pos hb)
  · exact (s.pool.stateOf_cutAll x.writeSet b).trans (if_neg hb)
  · exact (s.pool.byteAt?_cutAll x.writeSet b hj).trans (if_neg hb)

/-- Settles O2, window by window and block by block. -/
theorem powerOnValues : Obligations.PowerOnValues := by
  refine ⟨by decide +kernel, by decide +kernel, by decide +kernel, fun b => by simp [Pool.stateOf, State.reset, Pool.powerOn],
    fun _ => rfl, rfl, rfl, rfl, rfl, rfl, rfl, by decide, rfl⟩

end Sys2Proof.Machine
end

/-! # The read of a block -/

section
namespace Sys2Proof.Machine

theorem getElem_tabulate {α : Type} (n : Nat) (f : Nat → α) {i : Nat} (h : i < n) : (tabulate n f)[i] = f i := by
  simp [tabulate]

theorem toList_tabulate {α : Type} (n : Nat) (f : Nat → α) :
    (tabulate n f).toList = (List.finRange n).map fun i => f i.val := by
  have h : (tabulate n f).toList = (List.range n).map f := by simp [tabulate]
  rw [h, ← List.map_coe_finRange_eq_range, List.map_map]
  rfl

theorem wordOf_congr {f f' : Nat → Byte} (h : ∀ i < 8, f i = f' i) : wordOf f = wordOf f' := by
  simp only [wordOf, h 0 (by omega), h 1 (by omega), h 2 (by omega), h 3 (by omega), h 4 (by omega), h 5 (by omega),
    h 6 (by omega), h 7 (by omega)]

/-! ## The outcome of a read from the block's state and groups -/

section outcome

variable (P : Pool) (b : BlockNo)

/-- The outcome of the read of a GOOD block, by the classes of its 16 groups (R5). -/
theorem Pool.checked_result (f : Nat → GroupClass) :
    ((∃ g : Fin 16, f g.val = .uncorrectable) → (ReadOutcome.checked (tabulate 16 f)).result = .foundUncorrectable) ∧
      ((∀ g : Fin 16, f g.val ≠ .uncorrectable) →
        (ReadOutcome.checked (tabulate 16 f)).result =
          let n := ((List.finRange 16).filter fun g => f g.val = .correctable).length
          if n = 0 then .clean else .corrected n) := by
  have hmem : GroupClass.uncorrectable ∈ (tabulate 16 f).toList ↔ ∃ g : Fin 16, f g.val = .uncorrectable := by
    simp [toList_tabulate]
  have hlen : ((tabulate 16 f).toList.filter (· = GroupClass.correctable)).length =
      ((List.finRange 16).filter fun g => f g.val = .correctable).length := by
    rw [toList_tabulate, List.filter_map, List.length_map]
    rfl
  refine ⟨fun h => ?_, fun h => ?_⟩
  · simp only [ReadOutcome.result, if_pos (hmem.2 h)]
  · simp only [ReadOutcome.result, if_neg (mt hmem.1 (not_exists.2 h)), hlen]
    split
    · rw [if_pos ‹_›]
    · rename_i n hn
      rw [if_neg (by omega), hn]

/-- What the read of a block comes to, by the block's state and its groups (R5, R6). -/
theorem Pool.readBlock_result (x : Transfer) (hx : x.read = some (P.readBlock b).1) :
    (P.stateOf b = .unwritten → x.readResult = .blank) ∧ (P.stateOf b = .poisoned → x.readResult = .poisoned) ∧
      (P.stateOf b = .good → (∃ g : Fin 16, P.groupClass b g.val = .uncorrectable) → x.readResult = .foundUncorrectable) ∧
      (P.stateOf b = .good → (∀ g : Fin 16, P.groupClass b g.val ≠ .uncorrectable) →
        x.readResult =
          let n := ((List.finRange 16).filter fun g => P.groupClass b g.val = .correctable).length
          if n = 0 then .clean else .corrected n) := by
  have hr : x.readResult = (P.readBlock b).1.result := by simp only [Transfer.readResult, hx]
  rw [hr]
  refine ⟨fun h => ?_, fun h => ?_, fun h => ?_, fun h => ?_⟩ <;> simp only [Pool.readBlock, h]
  · rfl
  · rfl
  · exact (Pool.checked_result (P.groupClass b)).1
  · exact (Pool.checked_result (P.groupClass b)).2

/-- The bytes a read of a GOOD block yields are those it uses (R5). -/
theorem Pool.readBlock_data (h : P.stateOf b = .good) (j : Fin 128) : (P.readBlock b).2[j] = P.usedByte b j.val := by
  simp only [Pool.readBlock, h]
  exact getElem_tabulate 128 _ j.isLt

end outcome

/-- The transfer of a kind that reads carries the read of its block (R5, R6). -/
theorem State.transferOf_read (s : State) (p : PortId) (b : BlockNo) (d : Option BlockNo) {k : TransferKind}
    (hk : k ∈ [TransferKind.load, .copy, .verify]) :
    s.transferOf p ⟨k, b, d⟩ = ⟨.port p, k, b, d, some (s.pool.readBlock b).1, (s.pool.readBlock b).2⟩ := by
  simp only [List.mem_cons, List.not_mem_nil, or_false] at hk
  rcases hk with rfl | rfl | rfl <;> rfl

/-- A correction of a number of groups is counted exactly if there is a correctable group. -/
theorem filter_length_eq_zero {n : Nat} (q : Fin n → Prop) [DecidablePred q] :
    ((List.finRange n).filter fun g => q g).length = 0 ↔ ¬ ∃ g, q g := by
  simp

/-- Settles O44, by the outcome of the read of the block. -/
theorem transferAtItsStart : Obligations.TransferAtItsStart := by
  intro s p b d
  refine ⟨rfl, rfl, fun x hx => s.pool.readBlock_result b x hx, fun j h => s.pool.readBlock_data b h j, fun k hk => ?_⟩
  rw [s.transferOf_read p b d hk]
  obtain ⟨hblank, hpois, hfound, hused⟩ :=
    s.pool.readBlock_result b ⟨.port p, k, b, d, some (s.pool.readBlock b).1, (s.pool.readBlock b).2⟩ rfl
  refine ⟨⟨rfl, rfl⟩, rfl, rfl, rfl, rfl, fun h => ?_, fun h => ?_, fun h hg => ?_, fun h hg =>
    ⟨?_, s.pool.readBlock_data b h⟩⟩
  · simp only [Transfer.result, hblank h]
  · simp only [Transfer.result, hpois h]
  · simp only [Transfer.result, hfound h hg]
  · simp only [Transfer.result, hused h hg]
    by_cases hn : ∃ g : Fin 16, s.pool.groupClass b g.val = .correctable
    · rw [if_neg (mt (filter_length_eq_zero _).1 (not_not.2 hn))]
      simp only [hn, decide_true]
    · rw [if_pos ((filter_length_eq_zero _).2 hn)]
      simp only [hn, decide_false]

/-! ## A block just written, and its wrong bits -/

section wrong

variable (P : Pool) (b : BlockNo) (g : Nat)

/-- The class of a group with at most two wrong bits (R2). -/
theorem Pool.groupClass_few :
    (P.wrongBits b g = [] → P.groupClass b g = .clean) ∧
      (∀ k, P.wrongBits b g = [k] → P.groupClass b g = .correctable ∧ P.identifiedBit b g = k) ∧
      ((P.wrongBits b g).length = 2 → P.groupClass b g = .uncorrectable) := by
  refine ⟨fun h => ?_, fun k h => ⟨?_, ?_⟩, fun h => ?_⟩
  · simp only [Pool.groupClass, h]
  · simp only [Pool.groupClass, h]
  · simp only [Pool.identifiedBit, h]
  · obtain ⟨x, y, e⟩ := List.length_eq_two.1 h
    simp only [Pool.groupClass, e]

/-- The group and the place in it that a bit's number stands for. -/
theorem bitNumber_div_mod (k : Fin 72) :
    bitNumber b g k.val / 72 = b.toNat * 16 + g ∧ bitNumber b g k.val % 72 = k.val := by
  simp only [bitNumber]; omega

/-- A number that is not in the list is entered at one place of it. -/
theorem Pool.disturb.toggle_new {n : Nat} {l : List Nat} (h : n ∉ l) :
    ∃ l₁ l₂, l = l₁ ++ l₂ ∧ toggle n l = l₁ ++ n :: l₂ := by
  induction l with
  | nil => exact ⟨[], [], rfl, rfl⟩
  | cons x l ih =>
    obtain ⟨hx, hl⟩ := not_or.1 (mt List.mem_cons.2 h)
    simp only [toggle, if_neg hx]
    split
    · exact ⟨[], x :: l, rfl, rfl⟩
    · obtain ⟨l₁, l₂, e, e'⟩ := ih hl
      exact ⟨x :: l₁, l₂, by rw [e]; rfl, by rw [e']; rfl⟩

/-- A new wrong bit enters the wrong bits of its own group, and of no other. -/
theorem Pool.wrongBits_toggle {P Q : Pool} {b : BlockNo} {g : Nat} {k : Fin 72} (hn : bitNumber b g k.val ∉ P.wrong)
    (hQ : Q.wrong = Pool.disturb.toggle (bitNumber b g k.val) P.wrong) :
    (∀ g', g' ≠ g → Q.wrongBits b g' = P.wrongBits b g') ∧ (Q.wrongBits b g).length = (P.wrongBits b g).length + 1 ∧
      (P.wrongBits b g = [] → Q.wrongBits b g = [k.val]) := by
  obtain ⟨hd, hm⟩ := bitNumber_div_mod b g k
  obtain ⟨l₁, l₂, e, e'⟩ := Pool.disturb.toggle_new hn
  rw [e'] at hQ
  simp only [Pool.wrongBits, hQ, e, List.filterMap_append, List.filterMap_cons, hd, hm]
  refine ⟨fun g' hg => ?_, ?_, fun h => ?_⟩
  · rw [if_neg (by omega)]
  · simp; omega
  · obtain ⟨h₁, h₂⟩ := List.append_eq_nil_iff.1 h
    simp only [if_true, h₁, h₂, List.nil_append]

/-- A block write leaves no wrong bit in the block. -/
theorem Pool.writeBlock_wrong (data : Bytes) {k : Nat} (hg : g < 16) (hk : k < 72) :
    bitNumber b g k ∉ (P.writeBlock b data).wrong := by
  have hd : bitNumber b g k / (16 * 72) = b.toNat := by simp only [bitNumber]; omega
  intro h
  have hn := (List.mem_filter.1 h).2
  rw [hd] at hn
  simp at hn

theorem Pool.wrongBits_writeBlock (data : Bytes) (hg : g < 16) : (P.writeBlock b data).wrongBits b g = [] := by
  refine List.filterMap_eq_nil_iff.2 fun n hn => if_neg fun e => ?_
  refine P.writeBlock_wrong b g data (k := n % 72) hg (by omega) ?_
  rwa [bitNumber, ← e, Nat.div_add_mod']

/-- The bytes a read uses of a group without wrong bits are the stored ones. -/
theorem Pool.usedByte_clean {j : Nat} (h : P.wrongBits b (j / 8) = []) : P.usedByte b j = P.stored b j := by
  simp [Pool.usedByte, (P.groupClass_few b (j / 8)).1 h]

theorem Pool.stored_of_known {P : Pool} {b : BlockNo} {j : Nat} {v : Byte}
    (h : Memory.byteAt? P.mem (storeAddr b j) = some v) : P.stored b j = v := by
  simp only [Pool.stored, h, Option.getD_some]

end wrong

section readBack

variable (P : Pool) (b : BlockNo) (data : Bytes)

theorem Pool.stored_writeBlock (j : Fin 128) : (P.writeBlock b data).stored b j.val = data[j] :=
  Pool.stored_of_known (P.byteAt?_writeBlock_data b data j)

/-- The read of a GOOD block, from the classes of its groups and the bytes used. -/
theorem Pool.readBlock_good {P : Pool} {b : BlockNo} {cs : Vector GroupClass 16} {data : Bytes} (h : P.stateOf b = .good)
    (hc : ∀ g : Fin 16, P.groupClass b g.val = cs[g]) (hd : ∀ j : Fin 128, P.usedByte b j.val = data[j]) :
    P.readBlock b = (.checked cs, data) := by
  have e₁ : tabulate 16 (P.groupClass b) = cs := Vector.ext fun i hi => (getElem_tabulate 16 _ hi).trans (hc ⟨i, hi⟩)
  have e₂ : tabulate 128 (P.usedByte b) = data := Vector.ext fun i hi => (getElem_tabulate 128 _ hi).trans (hd ⟨i, hi⟩)
  simp only [Pool.readBlock, h, e₁, e₂]

/-- A block just written reads back clean (R2, R9). -/
theorem Pool.readBlock_writeBlock :
    (P.writeBlock b data).readBlock b = (.checked (Vector.replicate 16 .clean), data) := by
  refine Pool.readBlock_good (by simp) (fun g => ?_) fun j => ?_
  · rw [(Pool.groupClass_few _ b g.val).1 (P.wrongBits_writeBlock b g.val data g.isLt)]
    simp
  · rw [Pool.usedByte_clean _ b (P.wrongBits_writeBlock b _ data (by omega)), P.stored_writeBlock b data j]

/-- What a write stores agrees in every group (R2). -/
theorem Pool.groupAgrees_writeBlock (g : Fin 16) : groupAgrees ((P.writeBlock b data).storedGroup b g.val) = true := by
  rw [Pool.storedGroup, groupAgrees_append, Pool.stored_of_known (P.byteAt?_writeBlock_check b data g)]
  refine decide_eq_true (congrArg Config.checkByte (wordOf_congr fun i hi => ?_))
  have hj : 8 * g.val + i < 128 := by omega
  rw [P.stored_writeBlock b data ⟨_, hj⟩]
  simp [hj]

variable (g : Fin 16) (k : Fin 72)

theorem Pool.known_writeBlock : ∃ v, Memory.byteAt? (P.writeBlock b data).mem (storeAddr b (groupByte g k)) = some v := by
  have h := groupByte_lt g k
  rw [P.byteAt?_writeBlock_self b data h, List.getElem?_eq_getElem (by simpa using h)]
  exact ⟨_, rfl⟩

/-- A disturbance of a known byte enters the bit in the record of wrong bits, or takes it out. -/
theorem Pool.disturb_wrong (h : ∃ v, Memory.byteAt? P.mem (storeAddr b (groupByte g k)) = some v) :
    (P.disturb b g k).wrong = Pool.disturb.toggle (bitNumber b g k) P.wrong := by
  obtain ⟨v, hv⟩ := h
  rw [P.disturb_known b g k hv]

/-- What a changed bit leaves of a data byte just written. -/
theorem Pool.stored_disturb (j : Fin 128) :
    ((P.writeBlock b data).disturb b g k).stored b j.val =
      if j.val = groupByte g k then data[j] ^^^ (1#8 <<< (k.val % 8)) else data[j] := by
  have ha : storeAddr b j.val = storeAddr b (groupByte g k) ↔ j.val = groupByte g k :=
    ⟨fun h => (storeAddr_inj (by omega) (groupByte_lt g k) h).2, fun h => by rw [h]⟩
  refine Pool.stored_of_known ?_
  rw [Pool.byteAt?_disturb, P.byteAt?_writeBlock_data b data j, if_congr ha rfl rfl]
  split <;> rfl

/-- One changed bit of a block just written is corrected by its read (R2, R5). -/
theorem Pool.readBlock_disturb :
    ((P.writeBlock b data).disturb b g k).readBlock b =
      (.checked ((Vector.replicate 16 .clean).set g .correctable), data) := by
  obtain ⟨hother, -, hown⟩ := Pool.wrongBits_toggle (P.writeBlock_wrong b g.val data g.isLt k.isLt)
    (Pool.disturb_wrong _ b g k (P.known_writeBlock b data g k))
  have hclean : ∀ g' < 16, g' ≠ g.val → ((P.writeBlock b data).disturb b g k).wrongBits b g' = [] := fun g' h' hg =>
    (hother g' hg).trans (P.wrongBits_writeBlock b g' data h')
  obtain ⟨hclass, hbit⟩ := (Pool.groupClass_few ((P.writeBlock b data).disturb b g k) b g.val).2.1 k.val
    (hown (P.wrongBits_writeBlock b g.val data g.isLt))
  refine Pool.readBlock_good ?_ (fun g' => ?_) fun j => ?_
  · rw [Pool.disturb_fields]
    exact (P.stateOf_writeBlock b data b).trans (if_pos rfl)
  · by_cases e : g' = g
    · subst e; simp [hclass]
    · have e' : g.val ≠ g'.val := fun h => e (Fin.ext h.symm)
      rw [(Pool.groupClass_few _ b g'.val).1 (hclean g'.val g'.isLt e'.symm)]
      simp [e']
  · have hj := P.stored_disturb b data g k j
    by_cases e : j.val / 8 = g.val
    · have hbyte : k.val / 8 = j.val % 8 ↔ j.val = groupByte g k := by
        simp only [groupByte]; split <;> omega
      simp only [Pool.usedByte, e, hclass, hbit, hbyte, true_and, hj]
      split
      · rw [BitVec.xor_assoc, BitVec.xor_self, BitVec.xor_zero]
      · rfl
    · have hne : j.val ≠ groupByte g k := by
        simp only [groupByte]; split <;> omega
      rw [Pool.usedByte_clean _ b (hclean _ (by omega) e), hj, if_neg hne]

/-- Two changed bits of one group of a block just written are beyond correction (R2). -/
theorem Pool.groupClass_disturb_twice {k k' : Fin 72} (hk : k ≠ k') :
    (((P.writeBlock b data).disturb b g k).disturb b g k').groupClass b g = .uncorrectable := by
  have hw := Pool.disturb_wrong _ b g k (P.known_writeBlock b data g k)
  have hnew : bitNumber b g k' ∉ ((P.writeBlock b data).disturb b g k).wrong := by
    intro h
    obtain ⟨l₁, l₂, e, e'⟩ := Pool.disturb.toggle_new (P.writeBlock_wrong b g.val data g.isLt k.isLt)
    have hold := P.writeBlock_wrong b g.val data g.isLt k'.isLt
    have hne : bitNumber b g k' ≠ bitNumber b g k := by
      simp only [bitNumber]; omega
    rw [hw, e'] at h
    rw [e] at hold
    simp_all
  have hknown : ∃ v, Memory.byteAt? ((P.writeBlock b data).disturb b g k).mem (storeAddr b (groupByte g k')) = some v := by
    obtain ⟨v, hv⟩ := P.known_writeBlock b data g k'
    rw [Pool.byteAt?_disturb, hv]
    split <;> exact ⟨_, rfl⟩
  have h₁ := (Pool.wrongBits_toggle (P.writeBlock_wrong b g.val data g.isLt k.isLt) hw).2.1
  have h₂ := (Pool.wrongBits_toggle hnew (Pool.disturb_wrong _ b g k' hknown)).2.1
  rw [P.wrongBits_writeBlock b g.val data g.isLt] at h₁
  exact (Pool.groupClass_few _ b g.val).2.2 (h₂.trans (congrArg (· + 1) h₁))

end readBack

/-- Settles O51, by the wrong bits of the group. -/
theorem writtenBlockReadsBack : Obligations.WrittenBlockReadsBack := fun P b data g k _ =>
  ⟨P.readBlock_writeBlock b data, P.readBlock_disturb b data g k, P.groupClass_disturb_twice b data g,
    P.groupAgrees_writeBlock b data g, P.groupClass_many b g⟩

end Sys2Proof.Machine
end

/-! # The waits-for relation, and what keeps one lock record sound -/

section
namespace Sys2Proof.Machine

/-! ## Waits-for and its cycles -/

section waitsFor

variable (s : State)

theorem State.waitsFor_iff (w h : PortId) :
    s.waitsFor w h = true ↔ w ≠ h ∧ ∃ l, (s.lockAt l).waits w = true ∧ (s.lockAt l).holds h = true := by
  simp [State.waitsFor, mem_allLocks]

theorem State.reaches_succ (n : Nat) (a b : PortId) :
    s.reaches (n + 1) a b = true ↔ s.waitsFor a b = true ∨ ∃ h, s.waitsFor a h = true ∧ s.reaches n h b = true := by
  simp [State.reaches, mem_allPorts]

theorem State.reachable_of_reaches {n : Nat} {a b : PortId} (h : s.reaches n a b = true) : s.reachable a b := by
  induction n generalizing a with
  | zero => cases h
  | succ n ih =>
    rcases (s.reaches_succ n a b).1 h with e | ⟨c, e, hc⟩
    · exact .single e
    · exact .head e (ih hc)

theorem State.exists_reaches {a b : PortId} (h : s.reachable a b) : ∃ n, s.reaches n a b = true := by
  induction h using Relation.TransGen.head_induction_on with
  | single e => exact ⟨1, (s.reaches_succ 0 _ _).2 (.inl e)⟩
  | head e _ ih =>
    obtain ⟨n, hn⟩ := ih
    exact ⟨n + 1, (s.reaches_succ n _ _).2 (.inr ⟨_, e, hn⟩)⟩

theorem State.reaches_mono {n m : Nat} (hnm : n ≤ m) {a b : PortId} (h : s.reaches n a b = true) : s.reaches m a b = true := by
  induction m generalizing n a with
  | zero => rwa [Nat.le_zero.1 hnm] at h
  | succ m ih =>
    cases n with
    | zero => cases h
    | succ n =>
      rcases (s.reaches_succ n a b).1 h with e | ⟨c, e, hc⟩
      · exact (s.reaches_succ m a b).2 (.inl e)
      · exact (s.reaches_succ m a b).2 (.inr ⟨c, e, ih (Nat.le_of_succ_le_succ hnm) hc⟩)

/-- The ports from which `b` is reached along at most `n` edges. -/
def State.reaching (n : Nat) (b : PortId) : Finset PortId := Finset.univ.filter fun a => s.reaches n a b = true

theorem State.mem_reaching {n : Nat} {a b : PortId} : a ∈ s.reaching n b ↔ s.reaches n a b = true := by
  simp [State.reaching]

theorem State.reaching_mono {n m : Nat} (h : n ≤ m) (b : PortId) : s.reaching n b ⊆ s.reaching m b := fun _ ha =>
  s.mem_reaching.2 (s.reaches_mono h (s.mem_reaching.1 ha))

/-- Once one more edge reaches no new port, none ever does. -/
theorem State.reaching_stable {n : Nat} {b : PortId} (h : s.reaching n b = s.reaching (n + 1) b) :
    s.reaching (n + 1) b = s.reaching (n + 2) b := by
  ext a
  have step : ∀ c, s.reaches n c b = true ↔ s.reaches (n + 1) c b = true := fun c => by
    rw [← s.mem_reaching, h, s.mem_reaching]
  rw [s.mem_reaching, s.mem_reaching, s.reaches_succ, s.reaches_succ (n + 1)]
  simp only [step]

/-- Among four ports every path can be cut to four edges: the sets of ports that reach one grow at most four times. -/
theorem State.reaches_four {n : Nat} {a b : PortId} (h : s.reaches n a b = true) : s.reaches 4 a b = true := by
  rcases Nat.le_total n 4 with hn | hn
  · exact s.reaches_mono hn h
  · have hcard : (s.reaching n b).card = (s.reaching 4 b).card := by
      refine Nat.stabilises_of_monotone (f := fun n => (s.reaching n b).card) (fun i j hij => ?_) (fun i => ?_) (fun i hi => ?_)
        hn
      · exact Finset.card_le_card (s.reaching_mono hij b)
      · exact (Finset.card_le_univ _).trans (by simp)
      · exact congrArg Finset.card (s.reaching_stable (Finset.eq_of_subset_of_card_le
          (s.reaching_mono (Nat.le_succ i) b) hi.ge))
    have heq := Finset.eq_of_subset_of_card_le (s.reaching_mono hn b) hcard.le
    exact s.mem_reaching.1 (heq ▸ s.mem_reaching.2 h)

/-- Reachability along at most four edges is reachability (R54). -/
theorem State.reaches_four_iff (a b : PortId) : s.reaches 4 a b = true ↔ s.reachable a b :=
  ⟨s.reachable_of_reaches, fun h => let ⟨_, hn⟩ := s.exists_reaches h; s.reaches_four hn⟩

theorem State.noCycle_iff : s.noCycle ↔ ∀ p, ¬ s.reachable p p :=
  forall_congr' fun p => by rw [← s.reaches_four_iff, Bool.not_eq_true]

end waitsFor

/-- A new edge that ends at a port which waits for none closes no cycle. -/
theorem State.noCycle_of_edges {s t : State} (h : s.noCycle)
    (he : ∀ a b, t.waitsFor a b = true → s.waitsFor a b = true ∨ ∀ c, t.waitsFor b c = false) : t.noCycle := by
  have old : ∀ a b c, t.waitsFor a b = true → t.waitsFor b c = true → s.waitsFor a b = true := fun a b c hab hbc =>
    (he a b hab).resolve_right fun hn => by simp [hn c] at hbc
  have path : ∀ a b, t.reachable a b → ∀ c, t.waitsFor b c = true → s.reachable a b := by
    intro a b hab
    induction hab with
    | single e => exact fun c hc => .single (old _ _ c e hc)
    | tail _ e ih => exact fun c hc => .tail (ih _ e) (old _ _ c e hc)
  refine t.noCycle_iff.2 fun p hp => s.noCycle_iff.1 h p ?_
  obtain ⟨c, hc, -⟩ := Relation.TransGen.head'_iff.1 hp
  exact path p p hp c hc

/-- New edges from one port close no cycle if that port is not reachable from where they end (R54). -/
theorem State.noCycle_of_new_waiter {s t : State} {p : PortId} {H : PortId → Prop} (h : s.noCycle)
    (he : ∀ a b, t.waitsFor a b = true → s.waitsFor a b = true ∨ (a = p ∧ H b))
    (hH : ∀ b, H b → ¬ Relation.ReflTransGen (fun w h => s.waitsFor w h = true) b p) : t.noCycle := by
  have path : ∀ a b, t.reachable a b → s.reachable a b ∨
      (Relation.ReflTransGen (fun w h => s.waitsFor w h = true) a p ∧
        ∃ c, H c ∧ Relation.ReflTransGen (fun w h => s.waitsFor w h = true) c b) := by
    intro a b hab
    induction hab with
    | single e =>
      rcases he _ _ e with e | ⟨rfl, hb⟩
      · exact .inl (.single e)
      · exact .inr ⟨.refl, _, hb, .refl⟩
    | tail _ e ih =>
      rcases he _ _ e, ih with ⟨e | ⟨rfl, hb⟩, ih | ⟨hap, c, hc, hcb⟩⟩
      · exact .inl (.tail ih e)
      · exact .inr ⟨hap, c, hc, .tail hcb e⟩
      · exact .inr ⟨ih.to_reflTransGen, _, hb, .refl⟩
      · exact absurd hcb (hH c hc)
  refine t.noCycle_iff.2 fun a ha => ?_
  rcases path a a ha with ha | ⟨hap, c, hc, hca⟩
  · exact s.noCycle_iff.1 h a ha
  · exact hH c hc (hca.trans hap)

end Sys2Proof.Machine
end

/-! # What keeps one lock record sound -/

section
namespace Sys2Proof.Machine

/-! ## Holders and waiters -/

section

variable (k : Lock) (p q : PortId)

theorem Lock.mem_holderList : p ∈ k.holderList ↔ k.holds p = true := by
  simp [Lock.holderList, mem_allPorts]

theorem Lock.holderList_eq_nil : k.holderList = [] ↔ ∀ q, k.holds q = false := by
  simp [Lock.holderList, mem_allPorts]

theorem Lock.nodup_holderList : k.holderList.Nodup := List.Nodup.filter _ (by decide)

theorem Lock.holderList_eq_singleton : k.holderList = [p] ↔ ∀ q, k.holds q = true ↔ q = p := by
  constructor
  · intro h q
    rw [← k.mem_holderList, h, List.mem_singleton]
  · intro h
    refine List.perm_singleton.1 ((List.perm_ext_iff_of_nodup k.nodup_holderList (by simp)).2 fun q => ?_)
    rw [k.mem_holderList, h, List.mem_singleton]

theorem Lock.holderList_length_one : k.holderList.length = 1 ↔ ∃ p, ∀ q, k.holds q = true ↔ q = p := by
  simp only [List.length_eq_one_iff, Lock.holderList_eq_singleton]

theorem Lock.waits_iff : k.waits p = true ↔ p ∈ k.queue.map Waiter.port := by
  simp [Lock.waits]

theorem Lock.waits_eq_false : k.waits p = false ↔ ∀ w ∈ k.queue, w.port ≠ p := by
  simp [Lock.waits]

theorem Lock.waits_of_mem {w : Waiter} (h : w ∈ k.queue) : k.waits w.port = true :=
  (k.waits_iff _).2 (List.mem_map_of_mem h)

theorem getElem_set_port {α : Type} (v : Vector α 4) (p q : PortId) (a : α) : (v.set p a)[q] = if q = p then a else v[q] := by
  by_cases h : q = p
  · subst h; simp
  · have h' : p.val ≠ q.val := fun e => h (Fin.ext e.symm)
    simp [h, h']

theorem Lock.holds_reset : Lock.reset.holds q = false := by revert q; decide

end

/-- Every record of a sound part meets this: mode, holders, leases and range (R18, R19), and the queue (R36, R37). -/
structure Lock.recordSound (k : Lock) : Prop where
  free_iff : k.mode = .free ↔ ∀ q, k.holds q = false
  exclusive : k.mode = .exclusive → ∃ p, ∀ q, k.holds q = true ↔ q = p
  eq_reset : k.defined = false → k = Lock.reset
  leases : ∀ (p : PortId) (e : Hold), k.holders[p] = some e → (e.lease = none ↔ k.lease = 0)
  range : k.rangeSound
  nodup : (k.queue.map Waiter.port).Nodup
  not_holder : ∀ w ∈ k.queue, w.want ≠ .upgrade → k.holds w.port = false
  upgrade_head : ∀ w ∈ k.queue, w.want = .upgrade →
    k.queue.head? = some w ∧ k.holds w.port = true ∧ k.mode = .shared

theorem Lock.recordSound_iff (k : Lock) : k.recordSound ↔ k.sound ∧ k.rangeSound ∧ k.queueSound := by
  constructor
  · rintro ⟨hf, he, hd, hl, hr, hn, hh, hu⟩
    exact ⟨⟨hf.trans k.holderList_eq_nil.symm, fun hm => k.holderList_length_one.2 (he hm), hd, hl⟩, hr, hn, hh, hu⟩
  · rintro ⟨⟨hf, he, hd, hl⟩, hr, hn, hh, hu⟩
    exact ⟨hf.trans k.holderList_eq_nil, fun hm => k.holderList_length_one.1 (he hm), hd, hl, hr, hn, hh, hu⟩

theorem Lock.recordSound_reset : Lock.reset.recordSound := by
  have unheld : ∀ p : PortId, Lock.reset.holders[p] = none := by decide
  refine ⟨iff_of_true rfl Lock.holds_reset, (fun hm => nomatch hm), fun _ => rfl, fun p e he => ?_, (fun hd => nomatch hd),
    List.nodup_nil, fun w hw => ?_, fun w hw => ?_⟩
  · rw [unheld p] at he; cases he
  · cases hw
  · cases hw

theorem Lock.settled_nil {k : Lock} (h : k.queue = []) : k.settled := fun w hw => by simp [h] at hw

namespace Lock.recordSound

variable {k : Lock} (h : k.recordSound)
include h

theorem defined_of_holds {p : PortId} (hp : k.holds p = true) : k.defined = true := by
  by_contra hd
  rw [h.eq_reset (by simpa using hd), Lock.holds_reset] at hp
  cases hp

theorem defined_of_mem {w : Waiter} (hw : w ∈ k.queue) : k.defined = true := by
  by_contra hd
  rw [h.eq_reset (by simpa using hd)] at hw
  cases hw

/-- A waiter for SHARED or EXCLUSIVE is no holder, so a port that holds and waits waits for an UPGRADE. -/
theorem upgrades_of_waits {p : PortId} (hp : k.holds p = true) (hw : k.waits p = true) : k.upgrades p = true := by
  obtain ⟨w, hwq, rfl⟩ := List.mem_map.1 ((k.waits_iff p).1 hw)
  have hu : w.want = .upgrade := by
    by_contra hne
    rw [h.not_holder w hwq hne] at hp
    cases hp
  exact List.any_eq_true.2 ⟨w, hwq, by simp [hu]⟩

/-- With an EXCLUSIVE holder no waiter is grantable (R38). -/
theorem settled_of_exclusive (hm : k.mode = .exclusive) : k.settled := by
  intro w hw
  have hmem := List.mem_of_mem_head? hw
  obtain ⟨p, hp⟩ := h.exclusive hm
  simp only [Lock.grantable]
  cases e : w.want with
  | shared => simp [hm]
  | exclusive =>
    have : k.holderList ≠ [] := fun hn => by simpa [(hp p).2 rfl] using k.holderList_eq_nil.1 hn p
    simpa using this
  | upgrade =>
    obtain ⟨-, -, hshared⟩ := h.upgrade_head w hmem e
    rw [hm] at hshared
    cases hshared

end Lock.recordSound

/-! ## The operations on a record -/

section dropHold

variable (k : Lock) (p q : PortId)

@[simp] theorem Lock.dropHold_holds : (k.dropHold p).holds q = (decide (q ≠ p) && k.holds q) := by
  simp only [Lock.holds, Lock.dropHold, getElem_set_port]
  split <;> simp [*]

theorem Lock.dropHold_mode :
    (k.dropHold p).mode = if ∀ q, (k.dropHold p).holds q = false then .free else k.mode := by
  have e : (allPorts.all fun i => (k.holders.set p none)[i].isNone) = true ↔ ∀ q, (k.dropHold p).holds q = false := by
    rw [List.all_eq_true]
    exact ⟨fun h q => Option.isSome_eq_false_iff.2 (h q (mem_allPorts q)),
      fun h q _ => Option.isSome_eq_false_iff.1 (h q)⟩
  rw [← if_congr e rfl rfl]
  rfl

theorem Lock.dropHold_reset : Lock.reset.dropHold p = Lock.reset := by revert p; decide

@[simp] theorem Lock.dropHold_waits : (k.dropHold p).waits q = k.waits q := rfl

/-- A port that does not wait leaves the holder set (R19, R51). -/
theorem Lock.recordSound.dropHold {k : Lock} (h : k.recordSound) {p : PortId} (hp : k.waits p = false) :
    (k.dropHold p).recordSound := by
  have stays : ∀ q, (k.dropHold p).holds q = true → (k.dropHold p).mode = k.mode := fun q hq => by
    rw [k.dropHold_mode, if_neg fun hn => by simp [hn q] at hq]
  refine ⟨?_, fun hm => ?_, fun hd => ?_, fun q e he => ?_, h.range, h.nodup, fun w hw hu => ?_, fun w hw hu => ?_⟩
  · rw [k.dropHold_mode]
    split
    · exact iff_of_true rfl ‹_›
    · rename_i hn
      refine iff_of_false (fun hm => hn fun q => ?_) hn
      rw [k.dropHold_holds, h.free_iff.1 hm q, Bool.and_false]
  · rw [k.dropHold_mode] at hm
    split at hm
    · cases hm
    · rename_i hn
      obtain ⟨r, hr⟩ := h.exclusive hm
      obtain ⟨q, hq⟩ := not_forall.1 hn
      simp only [k.dropHold_holds, Bool.and_eq_false_iff, decide_eq_false_iff_not, not_not, not_or, ← ne_eq] at hq
      have hqr : q = r := (hr q).1 (by simpa using hq.2)
      refine ⟨r, fun x => ?_⟩
      simp only [k.dropHold_holds, Bool.and_eq_true, decide_eq_true_eq, hr]
      exact ⟨fun hx => hx.2, fun hx => ⟨hx.trans hqr.symm ▸ hq.1, hx⟩⟩
  · rw [h.eq_reset hd, Lock.dropHold_reset]
  · simp only [Lock.dropHold, getElem_set_port] at he
    split at he
    · cases he
    · exact h.leases q e he
  · rw [k.dropHold_holds, h.not_holder w hw hu, Bool.and_false]
  · obtain ⟨hhead, hholds, hm⟩ := h.upgrade_head w hw hu
    have hne : w.port ≠ p := (k.waits_eq_false p).1 hp w hw
    have hkeep : (k.dropHold p).holds w.port = true := by simp [hne, hholds]
    exact ⟨hhead, hkeep, (stays _ hkeep).trans hm⟩

end dropHold

section removeEntry

variable (k : Lock) (p q : PortId)

@[simp] theorem Lock.removeEntry_holds : (k.removeEntry p).holds q = k.holds q := rfl

@[simp] theorem Lock.removeEntry_waits : (k.removeEntry p).waits q = (decide (q ≠ p) && k.waits q) := by
  rw [Bool.eq_iff_iff, Bool.and_eq_true, decide_eq_true_eq, Lock.waits_iff, Lock.waits_iff]
  simp only [Lock.removeEntry, List.mem_map, List.mem_filter, decide_eq_true_eq]
  constructor
  · rintro ⟨w, ⟨hw, hne⟩, rfl⟩; exact ⟨hne, w, hw, rfl⟩
  · rintro ⟨hne, w, hw, rfl⟩; exact ⟨w, ⟨hw, hne⟩, rfl⟩

/-- The head of a queue that is not left out stays its head. -/
theorem head?_filter_of_head? {α : Type} {f : α → Bool} {l : List α} {a : α} (h : l.head? = some a) (ha : f a = true) :
    (l.filter f).head? = some a := by
  obtain ⟨l', rfl⟩ := List.head?_eq_some_iff.1 h
  rw [List.filter_cons_of_pos ha]
  rfl

/-- Leaving entries out of the queue keeps a record sound: the order of the others stays (R56). -/
theorem Lock.recordSound.filterQueue {k : Lock} (h : k.recordSound) (f : Waiter → Bool) :
    Lock.recordSound { k with queue := k.queue.filter f } := by
  refine ⟨h.free_iff, h.exclusive, fun hd => ?_, h.leases, h.range, h.nodup.sublist (List.filter_sublist.map _),
    fun w hw hu => ?_, fun w hw hu => ?_⟩
  · rw [h.eq_reset hd]
    rfl
  · exact h.not_holder w (List.mem_filter.1 hw).1 hu
  · obtain ⟨hw, hf⟩ := List.mem_filter.1 hw
    obtain ⟨hhead, hrest⟩ := h.upgrade_head w hw hu
    exact ⟨head?_filter_of_head? hhead hf, hrest⟩

theorem Lock.recordSound.removeEntry {k : Lock} (h : k.recordSound) (p : PortId) : (k.removeEntry p).recordSound :=
  h.filterQueue _

end removeEntry

section grant

variable (k : Lock) (p q : PortId) (w : Wanted) (lease : Option Tick)

@[simp] theorem Lock.grant_holds : (k.grant p w lease).holds q = (decide (q = p) || k.holds q) := by
  simp only [Lock.holds, Lock.grant, getElem_set_port]
  split <;> simp [*]

@[simp] theorem Lock.grant_waits : (k.grant p w lease).waits q = k.waits q := rfl

/-- What admits a grant of each wanted mode (R38). -/
theorem Lock.grantable_iff (x : Waiter) :
    k.grantable x = true ↔ match x.want with
      | .exclusive => ∀ q, k.holds q = false
      | .upgrade => ∀ q, k.holds q = true ↔ q = x.port
      | .shared => k.mode ≠ .exclusive := by
  simp only [Lock.grantable]
  cases x.want with
  | shared => simp
  | exclusive => simp [Lock.holderList_eq_nil]
  | upgrade => simp [Lock.holderList_eq_singleton]

/-- A grant the rule admits to a port that does not wait keeps a record sound (R19, R38, R65). -/
theorem Lock.recordSound.grant {k : Lock} (h : k.recordSound) {x : Waiter} {lease : Option Tick} (hd : k.defined = true)
    (hx : k.waits x.port = false) (hg : k.grantable x = true) (hl : lease = none ↔ k.lease = 0) :
    (k.grant x.port x.want lease).recordSound := by
  have hg := (k.grantable_iff x).1 hg
  have hmode : (k.grant x.port x.want lease).mode = x.want.mode := rfl
  refine ⟨?_, fun hm => ?_, fun hd' => ?_, fun q e he => ?_, h.range, h.nodup, fun w hw hu => ?_, fun w hw hu => ?_⟩
  · refine iff_of_false (by rw [hmode]; cases x.want <;> decide) fun hn => ?_
    simpa using hn x.port
  · refine ⟨x.port, fun q => ?_⟩
    rw [hmode] at hm
    cases e : x.want with
    | shared => rw [e] at hm; cases hm
    | exclusive => rw [e] at hg; simp [hg q]
    | upgrade => rw [e] at hg; simp [hg q]
  · exact absurd hd' (by rw [show (k.grant x.port x.want lease).defined = k.defined from rfl, hd]; decide)
  · simp only [Lock.grant, getElem_set_port] at he
    split at he
    · cases he; exact hl
    · exact h.leases q e he
  · have hne := (k.waits_eq_false _).1 hx w hw
    rw [Lock.grant_holds, h.not_holder w hw hu, Bool.or_false]
    exact decide_eq_false hne
  · obtain ⟨hhead, hholds, hm⟩ := h.upgrade_head w hw hu
    have hne := (k.waits_eq_false _).1 hx w hw
    refine ⟨hhead, by simp [hholds], ?_⟩
    rw [hmode]
    cases e : x.want with
    | shared => rfl
    | exclusive => rw [e] at hg; rw [hg] at hholds; cases hholds
    | upgrade => rw [e] at hg; exact absurd ((hg _).1 hholds) hne

end grant

/-! ## Re-examination -/

/-- Without its head a queue is still sound: an UPGRADE waiter stands nowhere else. -/
theorem Lock.recordSound.tail {k : Lock} {x : Waiter} {ws : List Waiter} (h : Lock.recordSound { k with queue := x :: ws }) :
    Lock.recordSound { k with queue := ws } ∧ Lock.waits { k with queue := ws } x.port = false := by
  have hx : x.port ∉ ws.map Waiter.port := (List.nodup_cons.1 h.nodup).1
  have hnot : ∀ w ∈ ws, w.port ≠ x.port := fun w hw e => hx (List.mem_map.2 ⟨w, hw, e⟩)
  have hf : (x :: ws).filter (fun w => w.port ≠ x.port) = ws := by
    rw [List.filter_cons_of_neg (by simp)]
    exact List.filter_eq_self.2 fun w hw => by simp [hnot w hw]
  have hr := h.filterQueue fun w => decide (w.port ≠ x.port)
  rw [hf] at hr
  exact ⟨hr, (Lock.waits_eq_false _ _).2 hnot⟩

/-- Re-examination leaves a sound and settled record; the ports granted are the front of the queue, and each holder is an old
one or was granted (R38, R39). -/
theorem Lock.admitFrom_sound {lease : Option Tick} (ws : List Waiter) {k : Lock}
    (h : Lock.recordSound { k with queue := ws }) (hl : lease = none ↔ k.lease = 0) :
    (Lock.admitFrom lease ws k).1.recordSound ∧ (Lock.admitFrom lease ws k).1.settled ∧
      ws.map Waiter.port = (Lock.admitFrom lease ws k).2 ++ (Lock.admitFrom lease ws k).1.queue.map Waiter.port ∧
      ∀ q, (Lock.admitFrom lease ws k).1.holds q = true → k.holds q = true ∨ q ∈ (Lock.admitFrom lease ws k).2 := by
  induction ws generalizing k with
  | nil => exact ⟨h, Lock.settled_nil rfl, rfl, fun q hq => .inl hq⟩
  | cons x ws ih =>
    have hd : k.defined = true := h.defined_of_mem (w := x) (List.mem_cons_self)
    obtain ⟨htail, hx⟩ := h.tail
    simp only [Lock.admitFrom]
    split
    · rename_i hg
      have hgrant : Lock.recordSound { k.grant x.port x.want lease with queue := ws } :=
        htail.grant (x := x) (lease := lease) hd hx hg hl
      split
      · obtain ⟨hr, hs, hq, hh⟩ := ih hgrant hl
        refine ⟨hr, hs, by rw [List.map_cons, hq]; rfl, fun q hq => ?_⟩
        rcases hh q hq with hq | hq
        · rw [Lock.grant_holds, Bool.or_eq_true, decide_eq_true_eq] at hq
          rcases hq with rfl | hq
          · exact .inr List.mem_cons_self
          · exact .inl hq
        · exact .inr (List.mem_cons_of_mem _ hq)
      all_goals
        rename_i hw
        refine ⟨hgrant, hgrant.settled_of_exclusive (congrArg Wanted.mode hw), rfl, fun q hq => ?_⟩
        have hq : (k.grant x.port x.want lease).holds q = true := hq
        rw [Lock.grant_holds, Bool.or_eq_true, decide_eq_true_eq] at hq
        rcases hq with rfl | hq
        · exact .inr List.mem_cons_self
        · exact .inl hq
    · rename_i hg
      refine ⟨h, fun w hw => ?_, rfl, fun q hq => .inl hq⟩
      cases hw
      exact Bool.not_eq_true _ ▸ hg

end Sys2Proof.Machine
end

/-! # What keeps one port unit sound -/

section
namespace Sys2Proof.Machine

/-- A port unit is sound beside what the arbiter and the pool controller hold of it: whether a request of it waits, and
whether a transfer of it is in flight (R79, R92, R102). -/
def Port.fits (q : Port) (waits flies : Bool) : Prop :=
  q.bounded ∧ q.sound ∧ q.defineChecked ∧
    (q.state = .exec → q.requestLeaves.toNat + waits.toNat + flies.toNat = 1 ∧ (flies = true → q.held = none)) ∧
    (q.state = .aborting → q.requestLeaves = false ∧ waits = false ∧ flies = true) ∧
    (q.state ≠ .exec → q.state ≠ .aborting → q.requestLeaves = false ∧ waits = false ∧ flies = false)

/-- The bounds of a port unit in every state: those of a data phase left out (R102, R114, R137). -/
abbrev Port.sized (q : Port) : Prop := q.index ≤ 128 ∧ irqMask q.irqen = q.irqen ∧ q.notes.length ≤ 8

/-- Neither DONE nor ERR stands. -/
abbrev Port.unreported (q : Port) : Prop := q.done = false ∧ q.kind = .none

section byState

variable {q : Port} {waits flies : Bool}

theorem Port.requestLeaves_eq_false : q.requestLeaves = false ↔ q.outgoing = none := by
  simp [Port.requestLeaves]

theorem Port.fits.bounded (h : q.fits waits flies) : q.bounded := h.1

theorem Port.fits.sized (h : q.fits waits flies) : q.sized :=
  let ⟨⟨hi, _, hrest⟩, _⟩ := h
  ⟨hi, hrest⟩

theorem Port.fits.index_lt (h : q.fits waits flies) (hs : q.state = .dataIn ∨ q.state = .dataOut) : q.index < 128 :=
  let ⟨⟨_, hp, _⟩, _⟩ := h
  hp hs

theorem Port.fits.defineChecked (h : q.fits waits flies) : q.defineChecked :=
  let ⟨_, _, hc, _⟩ := h
  hc

theorem Port.defineChecked_none (h : q.outgoing = none) : q.defineChecked := fun l f n e ho => by simp [h] at ho

/-- A READY port has no command, no request and no held action. -/
theorem Port.fits_ready (hs : q.state = .ready) : q.fits waits flies ↔
    q.bounded ∧ (q.running = none ∧ q.outgoing = none ∧ q.held = none) ∧ waits = false ∧ flies = false := by
  constructor
  · rintro ⟨hb, ⟨-, hr, -⟩, -, -, -, hn⟩
    exact ⟨hb, hr hs, (hn (by simp [hs]) (by simp [hs])).2⟩
  · rintro ⟨hb, ⟨hr, ho, hh⟩, rfl, rfl⟩
    exact ⟨hb, by simp [Port.sound, hs, hr, ho, hh], Port.defineChecked_none ho, by simp [hs, Port.requestLeaves_eq_false, ho]⟩

/-- A port in a data phase has a command and nothing under way. -/
theorem Port.fits_phase (hs : q.state = .dataIn ∨ q.state = .dataOut) : q.fits waits flies ↔
    q.bounded ∧ q.unreported ∧ q.running.isSome ∧ q.outgoing = none ∧ q.held = none ∧ waits = false ∧ flies = false := by
  constructor
  · rintro ⟨hb, ⟨hd, -, hr, -, hh, -⟩, -, -, -, hn⟩
    rcases hs with hs | hs <;> simp [hs, Port.requestLeaves_eq_false] at hd hr hh hn <;>
      exact ⟨hb, ⟨by simpa using hd.1, by simpa using hd.2⟩, hr, hn.1, hh, hn.2⟩
  · rintro ⟨hb, ⟨hd, hk⟩, hr, ho, hh, rfl, rfl⟩
    refine ⟨hb, ?_, Port.defineChecked_none ho, ?_⟩
    · rcases hs with hs | hs <;> simp [Port.sound, hs, hd, hk, hr, ho, hh]
    · rcases hs with hs | hs <;> simp [hs, Port.requestLeaves_eq_false, ho]

/-- A port in WAITLOCK has a command, and at most an abort is held. -/
theorem Port.fits_waitLock (hs : q.state = .waitLock) : q.fits waits flies ↔
    q.bounded ∧ q.unreported ∧ q.running.isSome ∧ q.outgoing = none ∧ q.held ≠ some .portReset ∧ waits = false ∧
      flies = false := by
  constructor
  · rintro ⟨hb, ⟨hd, -, hr, -, -, hh, -⟩, -, -, -, hn⟩
    simp [hs, Port.requestLeaves_eq_false] at hd hr hh hn
    exact ⟨hb, ⟨by simpa using hd.1, by simpa using hd.2⟩, hr, hn.1, hh, hn.2⟩
  · rintro ⟨hb, ⟨hd, hk⟩, hr, ho, hh, rfl, rfl⟩
    exact ⟨hb, by simp [Port.sound, hs, hd, hk, hr, ho, hh], Port.defineChecked_none ho,
      by simp [hs, Port.requestLeaves_eq_false, ho]⟩

/-- A port in ABORTING waits for its transfer with an action held. -/
theorem Port.fits_aborting (hs : q.state = .aborting) : q.fits waits flies ↔
    q.bounded ∧ q.unreported ∧ q.running.isSome ∧ q.outgoing = none ∧ q.held.isSome ∧ waits = false ∧ flies = true := by
  constructor
  · rintro ⟨hb, ⟨hd, -, hr, -, -, -, hh, -⟩, -, -, hn, -⟩
    simp [hs, Port.requestLeaves_eq_false] at hd hr hh hn
    exact ⟨hb, ⟨by simpa using hd.1, by simpa using hd.2⟩, hr, hn.1, hh, hn.2⟩
  · rintro ⟨hb, ⟨hd, hk⟩, hr, ho, hh, rfl, rfl⟩
    exact ⟨hb, by simp [Port.sound, hs, hd, hk, hr, ho, hh], Port.defineChecked_none ho,
      by simp [hs, Port.requestLeaves_eq_false, ho]⟩

/-- A port in EXEC has its request at one place: on its way, at the arbiter, or carried out by its transfer. -/
theorem Port.fits_exec (hs : q.state = .exec) : q.fits waits flies ↔
    q.bounded ∧ q.unreported ∧ q.running.isSome ∧ q.defineChecked ∧
      (∀ r : HandedRequest, q.outgoing = some (.handed r) → q.held ≠ some .portReset) ∧
      ((q.outgoing.isSome ∧ waits = false ∧ flies = false) ∨ (q.outgoing = none ∧ waits = true ∧ flies = false) ∨
        (q.outgoing = none ∧ waits = false ∧ flies = true ∧ q.held = none)) := by
  constructor
  · rintro ⟨hb, ⟨hd, -, hr, -, -, -, -, hh⟩, hc, hn, -, -⟩
    simp [hs] at hd hr hn
    refine ⟨hb, ⟨by simpa using hd.1, by simpa using hd.2⟩, hr, hc, hh, ?_⟩
    obtain ⟨hsum, hf⟩ := hn
    rcases ho : q.outgoing with _ | o <;> cases waits <;> cases flies <;> simp_all [Port.requestLeaves]
  · rintro ⟨hb, ⟨hd, hk⟩, hr, hc, hh, hplace⟩
    refine ⟨hb, by simpa [Port.sound, hs, hd, hk, hr] using hh, hc, ?_⟩
    rcases hplace with ⟨ho, rfl, rfl⟩ | ⟨ho, rfl, rfl⟩ | ⟨ho, rfl, rfl, he⟩
    · simp [hs, Port.requestLeaves, ho]
    · simp [hs, Port.requestLeaves, ho]
    · simp [hs, Port.requestLeaves, ho, he]

/-- A port with its request at the arbiter is in EXEC, with no request on its way. -/
theorem Port.fits.exec_of_waits (h : q.fits true flies) : q.state = .exec ∧ q.outgoing = none ∧ flies = false := by
  obtain ⟨-, -, -, he, ha, hn⟩ := id h
  have hs : q.state = .exec := by
    by_contra hs
    by_cases hab : q.state = .aborting
    · simpa using (ha hab).2.1
    · simpa using (hn hs hab).2.1
  obtain ⟨-, -, -, -, -, hplace⟩ := (Port.fits_exec hs).1 h
  rcases hplace with ⟨-, h, -⟩ | ⟨ho, -, hf⟩ | ⟨-, h, -⟩
  · cases h
  · exact ⟨hs, ho, hf⟩
  · cases h

/-- A port whose transfer is in flight is in EXEC without a held action, or in ABORTING. -/
theorem Port.fits.of_flies (h : q.fits waits true) :
    q.outgoing = none ∧ waits = false ∧ ((q.state = .exec ∧ q.held = none) ∨ q.state = .aborting) := by
  obtain ⟨-, -, -, he, ha, hn⟩ := id h
  by_cases hs : q.state = .exec
  · obtain ⟨-, -, -, -, -, hplace⟩ := (Port.fits_exec hs).1 h
    rcases hplace with ⟨-, -, h⟩ | ⟨-, -, h⟩ | ⟨ho, hw, -, hh⟩
    · cases h
    · cases h
    · exact ⟨ho, hw, .inl ⟨hs, hh⟩⟩
  · by_cases hab : q.state = .aborting
    · obtain ⟨ho, hw, -⟩ := ha hab
      exact ⟨Port.requestLeaves_eq_false.1 ho, hw, .inr hab⟩
    · exact absurd (hn hs hab).2.2 (by decide)

/-- A port with a request on its way is in EXEC and has nothing at the arbiter or the pool. -/
theorem Port.fits.exec_of_outgoing {o : Outgoing} (h : q.fits waits flies) (ho : q.outgoing = some o) :
    q.state = .exec ∧ waits = false ∧ flies = false := by
  have hs : q.state = .exec := by
    obtain ⟨-, ⟨-, -, -, hout, -⟩, -⟩ := h
    exact hout (by simp [ho])
  obtain ⟨-, -, -, -, -, hplace⟩ := (Port.fits_exec hs).1 h
  rcases hplace with ⟨-, hw, hf⟩ | ⟨hn, -⟩ | ⟨hn, -⟩
  · exact ⟨hs, hw, hf⟩
  · simp [ho] at hn
  · simp [ho] at hn

/-- A port that is neither in EXEC nor in ABORTING has nothing at the arbiter or the pool. -/
theorem Port.fits.idle (h : q.fits waits flies) (hs : q.state ≠ .exec) (ha : q.state ≠ .aborting) :
    waits = false ∧ flies = false :=
  let ⟨_, _, _, _, _, hn⟩ := h
  (hn hs ha).2

end byState

/-! ## Operations on a port unit -/

section ops

variable {q : Port} {waits flies : Bool}

theorem Port.fits_reset : Port.reset.fits false false :=
  (Port.fits_ready rfl).2 ⟨by decide, ⟨rfl, rfl, rfl⟩, rfl, rfl⟩

/-- The end of a command leaves nothing under way (R101). -/
theorem Port.fits_complete (hb : q.sized) (k : ErrorKind) : (q.complete k).fits false false :=
  (Port.fits_ready rfl).2 ⟨⟨hb.1, by simp, hb.2⟩, ⟨rfl, rfl, rfl⟩, rfl, rfl⟩

theorem Port.fits.complete (h : q.fits false false) (k : ErrorKind) : (q.complete k).fits false false :=
  Port.fits_complete h.sized k

/-- A change of fields in which no command is kept leaves a port unit sound. -/
theorem Port.fits.congr {r : Port} (h : q.fits waits flies) (hb : r.bounded) (hstate : r.state = q.state)
    (hrun : r.running = q.running) (hout : r.outgoing = q.outgoing) (hheld : r.held = q.held)
    (hdone : r.done = true → q.done = true) (hkind : r.kind = q.kind) : r.fits waits flies := by
  obtain ⟨-, ⟨hd, hsound⟩, hrest⟩ := h
  refine ⟨hb, ⟨?_, ?_⟩, ?_⟩
  · rw [hstate, hkind]
    exact fun h => hd (h.imp_left hdone)
  · rw [hstate, hrun, hout, hheld]
    exact hsound
  · simp only [Port.defineChecked, Port.requestLeaves, hstate, hout, hheld] at hrest ⊢
    exact hrest

theorem Port.fits.addLost (h : q.fits waits flies) (l : LockId) : (q.addLost l).fits waits flies :=
  h.congr h.bounded rfl rfl rfl rfl id rfl

/-- A note enters a queue that is not full (R137, R140). -/
theorem Port.fits.appendNote (h : q.fits waits flies) (n : Note) (hn : q.notes.length < 8) :
    (q.appendNote n).fits waits flies := by
  obtain ⟨hi, hp, hirq, -⟩ := h.bounded
  exact h.congr ⟨hi, hp, hirq, by simpa using hn⟩ rfl rfl rfl rfl id rfl

theorem Port.fits.popNote (h : q.fits waits flies) : q.popNote.fits waits flies := by
  obtain ⟨hi, hp, hirq, hn⟩ := h.bounded
  exact h.congr ⟨hi, hp, hirq, by simp only [Port.popNote_notes, List.length_tail]; omega⟩ rfl rfl rfl rfl id rfl

theorem Port.fits.writeLost (h : q.fits waits flies) (v : Byte) : (q.writeLost v).fits waits flies := by
  simp only [Port.writeLost]
  split_ifs
  · exact h.congr h.bounded rfl rfl rfl rfl id rfl
  · exact h

theorem Port.fits.writeIrqen (h : q.fits waits flies) (v : Byte) :
    Port.fits { q with irqen := irqMask v } waits flies := by
  obtain ⟨hi, hp, -, hn⟩ := h.bounded
  have hm : irqMask (irqMask v) = irqMask v := by simp only [irqMask, BitVec.and_assoc, BitVec.and_self]
  exact h.congr ⟨hi, hp, hm, hn⟩ rfl rfl rfl rfl id rfl

theorem Port.fits.reject (h : q.fits waits flies) : Port.fits { q with rej := true } waits flies :=
  h.congr h.bounded rfl rfl rfl rfl id rfl

theorem Port.fits.readStatus (h : q.fits waits flies) (v : Byte) :
    Port.fits { q with dataBus := v, done := false } waits flies :=
  h.congr h.bounded rfl rfl rfl rfl (fun hd => nomatch hd) rfl

theorem Port.fits.writeArgument (h : q.fits waits flies) (o : Fin 16) (v : Byte) :
    (q.writeArgument o v).fits waits flies := by
  simp only [Port.writeArgument]
  split_ifs
  · split <;> exact h.congr h.bounded rfl rfl rfl rfl id rfl
  · exact h

/-- A block completed moves COUNT, BLOCK and DEST alone. -/
theorem Port.fits.blockCompleted (h : q.fits waits flies) : q.blockCompleted.fits waits flies := by
  rw [q.blockCompleted_fields]
  exact h.congr h.bounded rfl rfl rfl rfl id rfl

theorem Port.fits.takeMark (h : q.fits waits flies) (t : Transfer) : (q.takeMark t).fits waits flies := by
  simp only [Port.takeMark]
  split
  · exact h.congr h.bounded rfl rfl rfl rfl id rfl
  · exact h

theorem Port.takeMark_state (q : Port) (t : Transfer) : (q.takeMark t).state = q.state := by
  simp only [Port.takeMark]
  split <;> rfl

/-! ### A command goes on -/

/-- A port that has a command and nothing reported or under way: its command may go on with a phase or a request. -/
abbrev Port.engaged (q : Port) : Prop :=
  q.sized ∧ q.unreported ∧ q.running.isSome ∧ q.outgoing = none ∧ q.held = none

theorem Port.engaged.openPhase (h : q.engaged) {st : PortState} (hst : st = .dataIn ∨ st = .dataOut) :
    (q.openPhase st).fits false false := by
  obtain ⟨⟨-, hsize⟩, hu, hr, ho, hh⟩ := h
  exact (Port.fits_phase hst).2 ⟨⟨Nat.zero_le _, fun _ => Nat.zero_lt_succ _, hsize⟩, hu, hr, ho, hh, rfl, rfl⟩

theorem Port.engaged.offerBytes (h : q.engaged) (bs : Bytes) : (q.offerBytes bs).fits false false := by
  obtain ⟨⟨-, hsize⟩, hu, hr, ho, hh⟩ := h
  exact (Port.fits_phase (.inl rfl)).2 ⟨⟨Nat.zero_le _, fun _ => Nat.zero_lt_succ _, hsize⟩, hu, hr, ho, hh, rfl, rfl⟩

theorem Port.engaged.requestBlock (h : q.engaged) : q.requestBlock.fits false false := by
  obtain ⟨⟨hi, hsize⟩, hu, hr, -, hh⟩ := h
  refine (Port.fits_exec rfl).2 ⟨⟨hi, by simp, hsize⟩, hu, hr, fun l f n e ho => ?_, fun r ho => ?_,
    .inl ⟨rfl, rfl, rfl⟩⟩ <;> simp at ho

theorem Port.engaged.nextBlock (h : q.engaged) : q.nextBlock.fits false false := by
  simp only [Port.nextBlock]
  split
  · exact h.openPhase (.inr rfl)
  · exact h.requestBlock

/-- A block completed and the command goes on, or ends after the last (R116). -/
theorem Port.engaged.finishBlock (h : q.engaged) : q.finishBlock.fits false false := by
  have hr : q.blockCompleted.engaged := by
    rw [q.blockCompleted_fields]
    exact h
  simp only [Port.finishBlock]
  split_ifs
  · exact Port.fits_complete hr.1 .none
  · exact hr.nextBlock

/-- A port in a data phase, and one in EXEC whose transfer ends, are engaged. -/
theorem Port.fits.engaged_phase (h : q.fits waits flies) (hs : q.state = .dataIn ∨ q.state = .dataOut) :
    q.engaged ∧ waits = false ∧ flies = false := by
  obtain ⟨hb, hu, hr, ho, hh, hw, hf⟩ := (Port.fits_phase hs).1 h
  exact ⟨⟨h.sized, hu, hr, ho, hh⟩, hw, hf⟩

theorem Port.fits.engaged_flies (h : q.fits waits true) (hs : q.state = .exec) : q.engaged ∧ waits = false := by
  obtain ⟨ho, hw, hst⟩ := h.of_flies
  obtain ⟨hb, hu, hr, -⟩ := (Port.fits_exec hs).1 h
  refine ⟨⟨h.sized, hu, hr, ho, ?_⟩, hw⟩
  rcases hst with ⟨-, hh⟩ | ha
  · exact hh
  · rw [hs] at ha; cases ha

/-- A read of DATA (R103, R105). -/
theorem Port.fits.readData (h : q.fits waits flies) : q.readData.fits waits flies := by
  simp only [Port.readData]
  split_ifs with hs hi
  · obtain ⟨-, -, hirq, hn⟩ := h.bounded
    exact h.congr ⟨Nat.le_of_lt hi, fun _ => hi, hirq, hn⟩ rfl rfl rfl rfl id rfl
  · obtain ⟨⟨⟨-, hsize⟩, he⟩, rfl, rfl⟩ := h.engaged_phase (.inl hs)
    have heng : Port.engaged { q with dataBus := q.staging[q.index]?.getD 0, index := q.index + 1 } :=
      ⟨⟨h.index_lt (.inl hs), hsize⟩, he⟩
    split
    · exact heng.finishBlock
    · exact Port.fits_complete heng.1 .none
  · exact h.congr h.bounded rfl rfl rfl rfl id rfl

/-- A write of DATA (R104, R105). -/
theorem Port.fits.writeData (h : q.fits waits flies) (v : Byte) : (q.writeData v).fits waits flies := by
  simp only [Port.writeData]
  by_cases hs : q.state = .dataOut
  · have hlt : q.index < 128 := h.index_lt (.inr hs)
    rw [if_pos hs]
    split_ifs with hi
    · obtain ⟨-, -, hsize⟩ := h.bounded
      exact h.congr ⟨hlt, fun _ => hi, hsize⟩ rfl rfl rfl rfl id rfl
    · obtain ⟨⟨⟨-, hsize⟩, he⟩, rfl, rfl⟩ := h.engaged_phase (.inr hs)
      exact Port.engaged.requestBlock ⟨⟨hlt, hsize⟩, he⟩
  · rw [if_neg hs]
    exact h

/-! ### The result of a transfer -/

/-- The result of a transfer at a port in EXEC (R88, R118, R121, R123). -/
theorem Port.fits.takeResult (h : q.fits waits true) (hs : q.state = .exec) (t : Transfer) :
    waits = false ∧ (q.takeResult t).fits false false := by
  have hm := (h.takeMark t).engaged_flies ((q.takeMark_state t).trans hs)
  refine ⟨hm.2, ?_⟩
  simp only [Port.takeResult]
  split
  · exact Port.fits_complete h.sized _
  · split
    · exact hm.1.offerBytes t.data
    · exact hm.1.finishBlock

/-- The result of a transfer at a port in ABORTING (R110). -/
theorem Port.fits.settleAbort (h : q.fits waits flies) (t : Transfer) : (q.settleAbort t).fits false false := by
  have hm := h.takeMark t
  simp only [Port.settleAbort]
  split
  · exact Port.fits_complete hm.sized _
  · exact Port.fits_complete (q := { q.takeMark t with staging := t.data, index := 0 }) ⟨Nat.zero_le _, hm.sized.2⟩ _
  · exact Port.fits_complete hm.blockCompleted.sized _

end ops

end Sys2Proof.Machine
end

/-! # The lock table with the ports in front of it -/

section
namespace Sys2Proof.Machine

/-! ## The invariant between the parts of one event -/

/-- Port `p` is sound beside what the arbiter and the pool controller hold of it. -/
abbrev State.unitFits (s : State) (p : PortId) : Prop := (s.port p).fits s.arbiter.waiting[p].isSome (s.inFlight p)

/-- The lock table and the port units are sound, but for the queues of the locks `unsettled`, which await their
re-examination, and for the ports `parted`, whose commands have ended while the table may hold entries of them. -/
structure State.front (s : State) (unsettled : List LockId) (parted : List PortId) : Prop where
  record : ∀ l, (s.lockAt l).recordSound
  settled : ∀ l, l ∉ unsettled → (s.lockAt l).settled
  ranges : s.rangesDisjoint
  waiting : ∀ p, p ∉ parted → ((s.port p).state = .waitLock ↔ ∃ l, (s.lockAt l).waits p = true)
  ended : ∀ p ∈ parted, (s.port p).state = .ready
  oneQueue : ∀ p l m, (s.lockAt l).waits p = true → (s.lockAt m).waits p = true → l = m
  noCycle : s.noCycle
  units : ∀ p, s.unitFits p

theorem State.front_iff (s : State) :
    s.front [] [] ↔ s.tableSound ∧ ∀ p, (s.port p).bounded ∧ (s.port p).sound ∧ (s.port p).defineChecked ∧ s.oneRequest p := by
  constructor
  · intro h
    have record : ∀ l, (s.lockAt l).sound ∧ (s.lockAt l).rangeSound ∧ (s.lockAt l).queueSound ∧ (s.lockAt l).settled := by
      intro l
      obtain ⟨hk, hr, hq⟩ := (Lock.recordSound_iff _).1 (h.record l)
      exact ⟨hk, hr, hq, h.settled l List.not_mem_nil⟩
    exact ⟨⟨record, h.ranges, ⟨fun p => h.waiting p List.not_mem_nil, h.oneQueue⟩, h.noCycle⟩, h.units⟩
  · rintro ⟨⟨hl, hr, ⟨hw, hq⟩, hc⟩, hu⟩
    refine ⟨fun l => ?_, fun l _ => ?_, hr, fun p _ => hw p,
      (fun p hp => nomatch hp), hq, hc, hu⟩ <;>
      obtain ⟨hk, hrange, hqueue, hset⟩ := hl l
    · exact (Lock.recordSound_iff _).2 ⟨hk, hrange, hqueue⟩
    · exact hset

/-- Where one port unit changed, the others fit as before. -/
theorem State.units_update {s t : State} {p : PortId} (h : ∀ q, s.unitFits q)
    (hq : ∀ q, q ≠ p → t.port q = s.port q ∧ t.arbiter.waiting[q] = s.arbiter.waiting[q] ∧ t.inFlight q = s.inFlight q)
    (hp : t.unitFits p) (q : PortId) : t.unitFits q := by
  by_cases e : q = p
  · exact e ▸ hp
  · obtain ⟨h₁, h₂, h₃⟩ := hq q e
    have := h q
    rwa [State.unitFits, ← h₁, ← h₂, ← h₃] at this

/-- A port in WAITLOCK or READY has nothing at the arbiter or the pool, and may end its command. -/
theorem State.unitFits.complete {s : State} {p : PortId} (h : s.unitFits p) (hs : (s.port p).state ≠ .exec)
    (ha : (s.port p).state ≠ .aborting) (k : ErrorKind) :
    ((s.port p).complete k).fits s.arbiter.waiting[p].isSome (s.inFlight p) := by
  obtain ⟨hw, hf⟩ := h.idle hs ha
  rw [hw, hf]
  exact Port.fits_complete h.sized k

namespace State.front

variable {s t : State} {us : List LockId} {ps : List PortId}

/-! ## Changes of the port units -/

/-- The port units change, but no port not set apart enters or leaves WAITLOCK. -/
theorem update {ps' : List PortId} (h : s.front us ps) (hl : ∀ l, t.lockAt l = s.lockAt l)
    (hsub : ∀ p ∈ ps, p ∈ ps') (hw : ∀ q, q ∉ ps' → ((t.port q).state = .waitLock ↔ (s.port q).state = .waitLock))
    (hr : ∀ q ∈ ps', (t.port q).state = .ready) (hu : ∀ q, t.unitFits q) : t.front us ps' := by
  have hwf : t.waitsFor = s.waitsFor := by
    funext a b
    simp only [State.waitsFor, hl]
  refine ⟨fun l => hl l ▸ h.record l, fun l hn => hl l ▸ h.settled l hn, fun l m => by simpa only [hl] using h.ranges l m,
    fun p hp => ?_, hr, fun p l m => by simpa only [hl] using h.oneQueue p l m, ?_, hu⟩
  · simpa only [hl, hw p hp] using h.waiting p (mt (hsub p) hp)
  · exact State.noCycle_of_edges h.noCycle fun a b hab => .inl (hwf ▸ hab)

/-- One port unit changes and neither enters nor leaves WAITLOCK. -/
theorem onPort (h : s.front us []) (p : PortId) {f : Port → Port}
    (hw : (f (s.port p)).state = .waitLock ↔ (s.port p).state = .waitLock)
    (hf : (f (s.port p)).fits s.arbiter.waiting[p].isSome (s.inFlight p)) : (s.onPort p f).front us [] := by
  refine h.update (fun _ => rfl) (fun _ => id) (fun q _ => ?_) (fun q hq => nomatch hq) (State.units_update h.units
    (fun q hq => ⟨State.port_onPort_ne s f hq, rfl, rfl⟩) (by rw [State.unitFits, State.port_onPort_self]; exact hf))
  rw [State.port_onPort]
  split
  · rename_i e; exact e ▸ hw
  · exact Iff.rfl

/-- A port's command ends: until the table is looked at, the port is set apart. -/
theorem part (h : s.front us ps) (p : PortId) {f : Port → Port} (hr : (f (s.port p)).state = .ready)
    (hf : (f (s.port p)).fits s.arbiter.waiting[p].isSome (s.inFlight p)) : (s.onPort p f).front us (p :: ps) := by
  refine h.update (fun _ => rfl) (fun _ => List.mem_cons_of_mem _) (fun q hq => ?_) (fun q hq => ?_) (State.units_update h.units
    (fun q hq => ⟨State.port_onPort_ne s f hq, rfl, rfl⟩) (by rw [State.unitFits, State.port_onPort_self]; exact hf))
  · rw [State.port_onPort_ne s f fun e => hq (List.mem_cons.2 (.inl e))]
  · rw [State.port_onPort]
    split
    · exact hr
    · exact h.ended q ((List.mem_cons.1 hq).resolve_left ‹_›)

/-- The commands of ports that wait for a lock, or have none, end: the ports are set apart. -/
theorem partAll (h : s.front us ps) (qs : List PortId) (k : ErrorKind)
    (hq : ∀ q ∈ qs, (s.port q).state ≠ .exec ∧ (s.port q).state ≠ .aborting) : (s.completeAll qs k).front us (qs ++ ps) := by
  have hb := s.keepsBehind_completeAll qs k
  refine h.update (fun l => s.lockAt_completeAll qs k l) (fun p hp => List.mem_append_right _ hp) (fun q hn => ?_) (fun q hn => ?_)
    (fun q => ?_)
  · rw [State.port_completeAll, if_neg fun hm => hn (List.mem_append_left _ hm)]
  · rw [State.port_completeAll]
    split
    · rfl
    · exact h.ended q ((List.mem_append.1 hn).resolve_left ‹_›)
  · have hfly : (s.completeAll qs k).inFlight q = s.inFlight q := by simp only [State.inFlight, hb.1]
    rw [State.unitFits, State.port_completeAll, hb.2.1, hfly]
    split
    · exact (h.units q).complete (hq q ‹_›).1 (hq q ‹_›).2 k
    · exact h.units q

/-- Ports that wait nowhere need not be set apart. -/
theorem rejoin {qs : List PortId} (h : s.front us (qs ++ ps)) (hq : ∀ q ∈ qs, ∀ l, (s.lockAt l).waits q = false) :
    s.front us ps := by
  refine ⟨h.record, h.settled, h.ranges, fun p hp => ?_, fun p hp => h.ended p (List.mem_append_right _ hp), h.oneQueue,
    h.noCycle, h.units⟩
  by_cases hm : p ∈ qs
  · have hr := h.ended p (List.mem_append_left _ hm)
    exact iff_of_false (by rw [hr]; decide) fun ⟨l, hl⟩ => by rw [hq p hm l] at hl; cases hl
  · exact h.waiting p fun hn => (List.mem_append.1 hn).elim hm hp

/-- A port that stands neither in WAITLOCK nor apart waits nowhere. -/
theorem not_waits (h : s.front us ps) {p : PortId} (hp : p ∉ ps) (hs : (s.port p).state ≠ .waitLock) (l : LockId) :
    (s.lockAt l).waits p = false := by
  by_contra hw
  exact hs ((h.waiting p hp).2 ⟨l, by simpa using hw⟩)

/-- The port of an entry ends its command freely: it stands in WAITLOCK, or apart. -/
theorem free_of_waits (h : s.front us ps) {q : PortId} {l : LockId} (hq : (s.lockAt l).waits q = true) :
    (s.port q).state ≠ .exec ∧ (s.port q).state ≠ .aborting := by
  by_cases hp : q ∈ ps
  · rw [h.ended q hp]; decide
  · rw [(h.waiting q hp).2 ⟨l, hq⟩]; decide

/-! ## Changes of one lock record -/

/-- A lock record changes: no port enters its queue, the ports that leave it are set apart, and a port that becomes a holder
waits nowhere. Its queue awaits its re-examination. -/
theorem setLock (h : s.front us ps) (l : LockId) {k : Lock} (hk : k.recordSound) (hr : (s.setLock l k).rangesDisjoint)
    (hw : ∀ q, k.waits q = true → (s.lockAt l).waits q = true)
    (hleft : ∀ q, (s.lockAt l).waits q = true → k.waits q = false → q ∈ ps)
    (hh : ∀ q, k.holds q = true → (s.lockAt l).holds q = true ∨ ∀ i, ((s.setLock l k).lockAt i).waits q = false) :
    (s.setLock l k).front (l :: us) ps := by
  have waits_old : ∀ i q, ((s.setLock l k).lockAt i).waits q = true → (s.lockAt i).waits q = true := by
    intro i q hq
    rw [State.lockAt_setLock] at hq
    split at hq
    · rename_i e; exact e ▸ hw q hq
    · exact hq
  refine ⟨fun i => ?_, fun i hi => ?_, hr, fun p hp => ?_, h.ended, fun p i j hi hj => h.oneQueue p i j (waits_old i p hi)
    (waits_old j p hj), ?_, h.units⟩
  · rw [State.lockAt_setLock]
    split
    · exact hk
    · exact h.record i
  · obtain ⟨hne, hi⟩ := not_or.1 (mt List.mem_cons.2 hi)
    rw [State.lockAt_setLock_ne _ _ hne]
    exact h.settled i hi
  · refine (h.waiting p hp).trans ⟨fun ⟨i, hi⟩ => ⟨i, ?_⟩, fun ⟨i, hi⟩ => ⟨i, waits_old i p hi⟩⟩
    rw [State.lockAt_setLock]
    split
    · rename_i e
      by_contra hn
      exact hp (hleft p (e ▸ hi) (by simpa using hn))
    · exact hi
  · refine State.noCycle_of_edges h.noCycle fun a b hab => ?_
    obtain ⟨hne, i, ha, hb⟩ := ((s.setLock l k).waitsFor_iff a b).1 hab
    have hold : (s.lockAt i).holds b = true ∨ ∀ i, ((s.setLock l k).lockAt i).waits b = false := by
      rw [State.lockAt_setLock] at hb
      split at hb
      · rename_i e; exact e ▸ hh b hb
      · exact .inl hb
    refine hold.imp (fun hb => (s.waitsFor_iff a b).2 ⟨hne, i, waits_old i a ha, hb⟩) fun hn c => ?_
    by_contra hc
    obtain ⟨-, j, hj, -⟩ := ((s.setLock l k).waitsFor_iff b c).1 (by simpa using hc)
    rw [hn j] at hj
    cases hj

/-- A record whose definition and range stay meets the others as before. -/
theorem ranges_setLock (h : s.front us ps) {l : LockId} {k : Lock} (hd : k.defined = (s.lockAt l).defined)
    (hf : k.first = (s.lockAt l).first) (hc : k.count = (s.lockAt l).count) : (s.setLock l k).rangesDisjoint := by
  have same : ∀ i, ((s.setLock l k).lockAt i).defined = (s.lockAt i).defined ∧
      ((s.setLock l k).lockAt i).first = (s.lockAt i).first ∧ ((s.setLock l k).lockAt i).count = (s.lockAt i).count := by
    intro i
    rw [State.lockAt_setLock]
    split
    · rename_i e; subst e; exact ⟨hd, hf, hc⟩
    · exact ⟨rfl, rfl, rfl⟩
  intro i j hij
  simp only [Lock.meets, same]
  exact h.ranges i j hij

/-- The queue of a lock is settled again. -/
theorem settle {l : LockId} (h : s.front (l :: us) ps) (hl : (s.lockAt l).settled) : s.front us ps := by
  refine ⟨h.record, fun i hi => ?_, h.ranges, h.waiting, h.ended, h.oneQueue, h.noCycle, h.units⟩
  by_cases e : i = l
  · exact e ▸ hl
  · exact h.settled i fun hm => (List.mem_cons.1 hm).elim e hi

/-- A hold or an entry of port `p` leaves a record; a port whose entry leaves is set apart. -/
theorem leave (h : s.front us ps) (l : LockId) {k : Lock} (hk : k.recordSound)
    (hd : k.defined = (s.lockAt l).defined ∧ k.first = (s.lockAt l).first ∧ k.count = (s.lockAt l).count)
    (hw : ∀ q, k.waits q = true → (s.lockAt l).waits q = true)
    (hleft : ∀ q, (s.lockAt l).waits q = true → k.waits q = false → q ∈ ps)
    (hh : ∀ q, k.holds q = true → (s.lockAt l).holds q = true) : (s.setLock l k).front (l :: us) ps :=
  h.setLock l hk (h.ranges_setLock hd.1 hd.2.1 hd.2.2) hw hleft fun q hq => .inl (hh q hq)

/-! ## Re-examination -/

theorem setLock_completeAll (s : State) (l : LockId) (k : Lock) (qs : List PortId) (e : ErrorKind) :
    (s.setLock l k).completeAll qs e = (s.completeAll qs e).setLock l k := by
  induction qs generalizing s with
  | nil => rfl
  | cons q qs ih => exact ih (s.complete q e)

/-- A lease starts exactly if the lease length is not 0 (R65). -/
theorem leaseDeadline_eq_none (s : State) (m : Moment) (n : Byte) : s.leaseDeadline m n = none ↔ n = 0 := by
  simp only [State.leaseDeadline]
  split_ifs with h
  · exact iff_of_true rfl h
  · exact iff_of_false (by simp) h

/-- Re-examination settles the queue of its lock and keeps all else sound (R38). -/
theorem reexamine {l : LockId} (h : s.front (l :: us) ps) (m : Moment) : (s.reexamine m l).front us ps := by
  obtain ⟨hk, hset, hqueue, hholds⟩ := Lock.admitFrom_sound (lease := s.leaseDeadline m (s.lockAt l).lease)
    (s.lockAt l).queue (k := s.lockAt l) (h.record l) (leaseDeadline_eq_none s m _)
  obtain ⟨hdef, hfirst, hcount, -⟩ := Lock.admit_range (s.leaseDeadline m (s.lockAt l).lease) (s.lockAt l).queue (s.lockAt l)
  simp only [State.reexamine, setLock_completeAll]
  generalize Lock.admitFrom (s.leaseDeadline m (s.lockAt l).lease) (s.lockAt l).queue (s.lockAt l) = r at *
  have hnodup : (r.2 ++ r.1.queue.map Waiter.port).Nodup := hqueue ▸ (h.record l).nodup
  have hgranted : ∀ q ∈ r.2, (s.lockAt l).waits q = true := fun q hq => by
    rw [Lock.waits_iff, hqueue]; exact List.mem_append_left _ hq
  have hgone : ∀ q ∈ r.2, ∀ i, (((s.completeAll r.2 .none).setLock l r.1).lockAt i).waits q = false := by
    intro q hq i
    rw [State.lockAt_setLock]
    split
    · by_contra hn
      have hn := (Lock.waits_iff r.1 q).1 (by simpa using hn)
      exact List.disjoint_of_nodup_append hnodup hq hn
    · rename_i hi
      rw [State.lockAt_completeAll]
      by_contra hn
      exact hi (h.oneQueue q i l (by simpa using hn) (hgranted q hq))
  have hpart := h.partAll r.2 .none fun q hq => h.free_of_waits (hgranted q hq)
  have hset' : ((s.completeAll r.2 .none).setLock l r.1).front (l :: (l :: us)) (r.2 ++ ps) := by
    refine hpart.setLock l hk (hpart.ranges_setLock ?_ ?_ ?_) (fun q hq => ?_) (fun q hq hn => ?_) fun q hq => ?_
    · rw [State.lockAt_completeAll]; exact hdef
    · rw [State.lockAt_completeAll]; exact hfirst
    · rw [State.lockAt_completeAll]; exact hcount
    · rw [State.lockAt_completeAll, Lock.waits_iff, hqueue]
      exact List.mem_append_right _ ((Lock.waits_iff _ q).1 hq)
    · rw [State.lockAt_completeAll, Lock.waits_iff, hqueue] at hq
      refine List.mem_append_left _ ((List.mem_append.1 hq).resolve_right fun hm => ?_)
      rw [(Lock.waits_iff _ q).2 hm] at hn
      cases hn
    · rw [State.lockAt_completeAll]
      exact (hholds q hq).imp_right (hgone q)
  have hl : (((s.completeAll r.2 .none).setLock l r.1).lockAt l).settled := by
    rw [State.lockAt_setLock_self]; exact hset
  exact ((hset'.settle hl).settle hl).rejoin hgone

/-- Re-examination brings no port into EXEC, WAITLOCK or ABORTING. -/
theorem reexamine_state (s : State) (m : Moment) (l : LockId) (q : PortId) :
    ((s.reexamine m l).port q).state = (s.port q).state ∨ ((s.reexamine m l).port q).state = .ready := by
  rw [(s.reexamine_spec m l).2.1]
  split
  · exact .inr rfl
  · exact .inl rfl

/-- Re-examination brings no port into a queue. -/
theorem reexamine_waits {l : LockId} (hl : (s.lockAt l).recordSound) (m : Moment) {i : LockId} {q : PortId}
    (hq : ((s.reexamine m l).lockAt i).waits q = true) : (s.lockAt i).waits q = true := by
  rw [(s.reexamine_spec m l).1] at hq
  split at hq
  · rename_i e
    obtain ⟨-, -, hqueue, -⟩ :=
      Lock.admitFrom_sound (s.lockAt l).queue (k := s.lockAt l) hl (leaseDeadline_eq_none s m (s.lockAt l).lease)
    rw [e, Lock.waits_iff, hqueue]
    exact List.mem_append_right _ ((Lock.waits_iff _ q).1 hq)
  · exact hq

end State.front

end Sys2Proof.Machine
end

/-! # The requests and events of the lock table -/

section
namespace Sys2Proof.Machine

/-! ## New records of the requests -/

namespace Lock.recordSound

variable {k : Lock} (h : k.recordSound)
include h

/-- An entry for SHARED or EXCLUSIVE is placed at the tail (R44). -/
theorem enqueue (hd : k.defined = true) {p : PortId} {w : Wanted} (d : Option Tick) (hw : w ≠ .upgrade)
    (hp : k.waits p = false) (hh : k.holds p = false) : Lock.recordSound { k with queue := k.queue ++ [⟨p, w, d⟩] } := by
  obtain ⟨hf, he, hu, hl, hr, hn, hs, hup⟩ := h
  refine ⟨hf, he, fun hd' => absurd hd (by simp [show k.defined = false from hd']), hl, hr, ?_, fun x hx hne => ?_,
    fun x hx hxu => ?_⟩
  · rw [List.map_append, List.nodup_append]
    refine ⟨hn, by simp, fun a ha b hb => ?_⟩
    obtain ⟨x, hx, rfl⟩ := List.mem_map.1 ha
    rw [List.mem_singleton.1 hb]
    exact (k.waits_eq_false p).1 hp x hx
  · rcases List.mem_append.1 hx with hx | hx
    · exact hs x hx hne
    · rw [List.mem_singleton.1 hx]; exact hh
  · rcases List.mem_append.1 hx with hx | hx
    · obtain ⟨hhead, hrest⟩ := hup x hx hxu
      exact ⟨List.mem_head?_append_of_mem_head? hhead, hrest⟩
    · rw [List.mem_singleton.1 hx] at hxu; exact absurd hxu hw

/-- An UPGRADE entry of a SHARED holder is placed at the head, if there is no other (R48). -/
theorem enqueueUpgrade {p : PortId} (d : Option Tick) (hp : k.waits p = false) (hh : k.holds p = true) (hm : k.mode = .shared)
    (hno : ∀ x ∈ k.queue, x.want ≠ .upgrade) : Lock.recordSound { k with queue := ⟨p, .upgrade, d⟩ :: k.queue } := by
  have hd := h.defined_of_holds hh
  obtain ⟨hf, he, hu, hl, hr, hn, hs, -⟩ := h
  refine ⟨hf, he, fun hd' => absurd hd (by simp [show k.defined = false from hd']), hl, hr, ?_, fun x hx hne => ?_,
    fun x hx hxu => ?_⟩
  · refine List.nodup_cons.2 ⟨fun hm => ?_, hn⟩
    rw [(k.waits_iff p).2 hm] at hp
    cases hp
  · rcases List.mem_cons.1 hx with rfl | hx
    · exact absurd rfl hne
    · exact hs x hx hne
  · rcases List.mem_cons.1 hx with rfl | hx
    · exact ⟨rfl, hh, hm⟩
    · exact absurd hxu (hno x hx)

/-- The only holder goes from EXCLUSIVE to SHARED (R50). -/
theorem downgrade (hm : k.mode = .exclusive) : Lock.recordSound { k with mode := .shared } := by
  obtain ⟨r, hr⟩ := h.exclusive hm
  refine ⟨iff_of_false (by simp) fun hn => ?_, by simp, fun hd => ?_, h.leases, h.range, h.nodup, h.not_holder,
    fun w hw hu => ?_⟩
  · have := (hr r).2 rfl
    rw [show k.holds r = false from hn r] at this
    cases this
  · rw [h.eq_reset hd] at hm
    cases hm
  · obtain ⟨-, -, hshared⟩ := h.upgrade_head w hw hu
    rw [hm] at hshared
    cases hshared

/-- A holder's lease starts anew (R66). -/
theorem renew {p : PortId} {lease : Option Tick} (hp : k.holds p = true) (hl : lease = none ↔ k.lease = 0) :
    Lock.recordSound { k with holders := k.holders.set p (some ⟨lease⟩) } ∧
      ∀ q, Lock.holds { k with holders := k.holders.set p (some ⟨lease⟩) } q = k.holds q := by
  have hh : ∀ q, Lock.holds { k with holders := k.holders.set p (some ⟨lease⟩) } q = k.holds q := fun q => by
    simp only [Lock.holds, getElem_set_port]
    split
    · rename_i e
      rw [e]
      exact hp.symm
    · rfl
  refine ⟨⟨?_, ?_, fun hd => ?_, fun q e he => ?_, h.range, h.nodup, fun w hw hu => ?_, fun w hw hu => ?_⟩, hh⟩
  · simpa only [hh] using h.free_iff
  · simpa only [hh] using h.exclusive
  · have := h.defined_of_holds hp
    rw [show k.defined = false from hd] at this
    cases this
  · simp only [getElem_set_port] at he
    split at he
    · cases he; exact hl
    · exact h.leases q e he
  · rw [hh]; exact h.not_holder w hw hu
  · rw [hh]; exact h.upgrade_head w hw hu

/-- A broken lock has no holder and no UPGRADE waiter (R29). -/
theorem broken (hd : k.defined = true) : Lock.recordSound { k with
    mode := .free, holders := Vector.replicate 4 none, queue := k.queue.filter fun w => w.want ≠ .upgrade } := by
  have hh : ∀ q : PortId, (Vector.replicate 4 (none : Option Hold))[q] = none := fun q => by simp
  have hf := (h.filterQueue fun w => decide (w.want ≠ .upgrade)).nodup
  refine ⟨iff_of_true rfl fun q => ?_, (fun hm => nomatch hm),
    fun hd' => absurd hd (by simp [show k.defined = false from hd']), fun q e he => ?_, h.range, hf, fun w _ _ => ?_,
    fun w hw hu => ?_⟩
  · simp only [Lock.holds, hh]; rfl
  · rw [hh] at he; cases he
  · simp only [Lock.holds, hh]; rfl
  · simp [hu] at hw

end Lock.recordSound

/-- A lock just defined (R25). -/
theorem Lock.recordSound_defined {first : BlockNo} {count : Byte} (lease : Byte)
    (hr : count ≠ 0 ∧ first.toNat + count.toNat ≤ 512) :
    Lock.recordSound ⟨true, first, count, lease, .free, Vector.replicate 4 none, []⟩ := by
  have hh : ∀ q : PortId, (Vector.replicate 4 (none : Option Hold))[q] = none := fun q => by simp
  refine ⟨iff_of_true rfl fun q => ?_, (fun hm => nomatch hm), by simp, fun q e he => ?_, fun _ => hr, List.nodup_nil,
    fun w hw => ?_, fun w hw => ?_⟩
  · simp only [Lock.holds, hh]; rfl
  · rw [hh] at he; cases he
  · cases hw
  · cases hw

/-- Whether a waiter is grantable depends on mode and holders alone. -/
theorem Lock.grantable_congr {k k' : Lock} (hm : k'.mode = k.mode) (hh : ∀ q, k'.holds q = k.holds q) (x : Waiter) :
    k'.grantable x = k.grantable x := by
  rw [Bool.eq_iff_iff, Lock.grantable_iff, Lock.grantable_iff, hm]
  simp only [hh]

/-- An entry at the tail leaves a queue settled, if it could not have been granted at once (R44). -/
theorem Lock.settled_enqueue {k : Lock} (h : k.settled) {e : Waiter} (he : k.queue = [] → k.grantable e = false) :
    Lock.settled { k with queue := k.queue ++ [e] } := by
  intro w hw
  have hw : (k.queue ++ [e]).head? = some w := hw
  show k.grantable w = false
  cases hq : k.queue with
  | nil =>
    rw [hq] at hw
    cases hw
    exact he hq
  | cons x xs =>
    rw [hq] at hw
    cases hw
    exact h _ (by rw [hq]; rfl)

/-! ## Ending a command -/

/-- Port `p` waits for no lock, at no arbiter and for no transfer: its command may end. -/
abbrev State.mayEnd (s : State) (p : PortId) : Prop :=
  (s.port p).state ≠ .waitLock ∧ s.arbiter.waiting[p].isSome = false ∧ s.inFlight p = false

theorem State.mayEnd.keep {s t : State} {p : PortId} (h : s.mayEnd p) (hb : s.keepsBehind t)
    (hs : (t.port p).state = (s.port p).state ∨ (t.port p).state = .ready) : t.mayEnd p := by
  refine ⟨?_, by rw [hb.2.1]; exact h.2.1, by simpa only [State.inFlight, hb.1] using h.2.2⟩
  rcases hs with hs | hs <;> rw [hs]
  · exact h.1
  · decide

theorem State.mayEnd.reexamine {s : State} {p : PortId} (h : s.mayEnd p) (m : Moment) (l : LockId) :
    (s.reexamine m l).mayEnd p :=
  h.keep (s.keepsBehind_reexamine m l) (State.front.reexamine_state s m l p)

@[simp] theorem State.lockAt_complete (s : State) (p : PortId) (k : ErrorKind) (l : LockId) :
    (s.complete p k).lockAt l = s.lockAt l := rfl

namespace State.front

variable {s : State} {us : List LockId}

theorem complete (h : s.front us []) {p : PortId} (hp : s.mayEnd p) (k : ErrorKind) : (s.complete p k).front us [] := by
  refine h.onPort p (iff_of_false (by simp) hp.1) ?_
  rw [hp.2.1, hp.2.2]
  exact Port.fits_complete (h.units p).sized k

/-- Leaving the queue of a lock ends the command of a waiter: its entry goes with its hold, if it has one (R56). -/
theorem depart (h : s.front us []) {l : LockId} {p : PortId} (hp : (s.lockAt l).waits p = true) {k : Lock}
    (hk : k.recordSound)
    (hd : k.defined = (s.lockAt l).defined ∧ k.first = (s.lockAt l).first ∧ k.count = (s.lockAt l).count)
    (hw : ∀ q, k.waits q = (decide (q ≠ p) && (s.lockAt l).waits q))
    (hh : ∀ q, k.holds q = true → (s.lockAt l).holds q = true) (e : ErrorKind) :
    ((s.complete p e).setLock l k).front (l :: us) [] := by
  have hfree := h.free_of_waits hp
  have hpart : (s.complete p e).front us [p] := h.part p rfl ((h.units p).complete hfree.1 hfree.2 e)
  refine State.front.rejoin (qs := [p]) (hpart.leave l hk hd (fun q hq => ?_) (fun q hq hn => ?_) hh) fun q hq i => ?_
  · rw [hw, Bool.and_eq_true] at hq; exact hq.2
  · have hq : (s.lockAt l).waits q = true := hq
    rw [hw, hq, Bool.and_true] at hn
    simpa using hn
  · rw [List.mem_singleton.1 hq, State.lockAt_setLock]
    split
    · simp [hw]
    · rename_i hi
      by_contra hn
      exact hi (h.oneQueue p i l (by simpa using hn) hp)

/-! ## A port reset at the table -/

/-- What a port reset leaves of a record before its re-examination (R34). -/
theorem parted_record {k : Lock} (h : k.recordSound) (p : PortId) :
    ∃ k', (if k.holds p = true then k.dropHold p else k) = k' ∧ (k'.removeEntry p).recordSound ∧
      (k'.defined = k.defined ∧ k'.first = k.first ∧ k'.count = k.count) ∧ (∀ q, k'.waits q = k.waits q) ∧
      ∀ q, k'.holds q = true → k.holds q = true := by
  split
  · refine ⟨_, rfl, (h.removeEntry p).dropHold (by simp), ⟨rfl, rfl, rfl⟩, fun _ => rfl, fun q hq => ?_⟩
    rw [Lock.dropHold_holds, Bool.and_eq_true] at hq
    exact hq.2
  · exact ⟨k, rfl, h.removeEntry p, ⟨rfl, rfl, rfl⟩, fun _ => rfl, fun _ => id⟩

/-- A port reset at one lock: the port waits there no more, and no other record changes. -/
theorem resetAtLock {p : PortId} (h : s.front [] [p]) (m : Moment) (l : LockId) :
    (State.resetAtLock m p s l).front [] [p] ∧ ((State.resetAtLock m p s l).lockAt l).waits p = false ∧
      ∀ i, i ≠ l → (State.resetAtLock m p s l).lockAt i = s.lockAt i := by
  refine ⟨?_, ?_, (s.resetAtLock_spec m p l).1⟩ <;> simp only [State.resetAtLock] <;> split
  · obtain ⟨k, hk, hsound, hd, hw, hh⟩ := parted_record (h.record l) p
    rw [hk]
    refine State.front.reexamine (h.leave l hsound hd (fun q hq => ?_) (fun q hq hn => ?_) hh) m
    · rw [Lock.removeEntry_waits, Bool.and_eq_true, hw] at hq; exact hq.2
    · simpa [hw, hq] using hn
  · exact h
  · obtain ⟨k, hk, hsound, -⟩ := parted_record (h.record l) p
    rw [hk, ← Bool.not_eq_true]
    intro hn
    have := reexamine_waits (by rwa [State.lockAt_setLock_self]) m hn
    simp at this
  · rename_i hn
    simp only [Bool.or_eq_true, not_or, Bool.not_eq_true] at hn
    exact hn.2

theorem resetAtTable {p : PortId} (h : s.front [] [p]) (m : Moment) : (s.resetAtTable m p).front [] [] := by
  have all : ∀ (ls : List LockId) (s : State), s.front [] [p] → (ls.foldl (State.resetAtLock m p) s).front [] [p] ∧
      ∀ i, i ∈ ls ∨ (s.lockAt i).waits p = false → ((ls.foldl (State.resetAtLock m p) s).lockAt i).waits p = false := by
    intro ls
    induction ls with
    | nil => exact fun s h => ⟨h, fun i hi => hi.resolve_left (by simp)⟩
    | cons l ls ih =>
      intro s h
      obtain ⟨hf, hl, hrest⟩ := h.resetAtLock m l
      obtain ⟨hf', hw⟩ := ih _ hf
      refine ⟨hf', fun i hi => hw i ?_⟩
      by_cases e : i = l
      · exact .inr (e ▸ hl)
      · exact hi.imp (fun hm => (List.mem_cons.1 hm).resolve_left e) fun hn => by rw [hrest i e]; exact hn
  obtain ⟨hf, hw⟩ := all allLocks s h
  have hgone : ∀ l, ((s.resetAtTable m p).lockAt l).waits p = false := fun l => hw l (.inl (mem_allLocks l))
  refine State.front.rejoin (qs := [p]) hf fun q hq l => ?_
  rw [List.mem_singleton.1 hq]
  exact hgone l

/-- The effect of a port reset keeps the table and the port units sound (R34, R112). -/
theorem portResetEffect (h : s.front [] []) {p : PortId} (hw : s.arbiter.waiting[p].isSome = false)
    (hf : s.inFlight p = false) (m : Moment) : (s.portResetEffect m p).front [] [] := by
  refine State.front.resetAtTable (h.part p rfl ?_) m
  rw [hw, hf]
  exact Port.fits_reset

end State.front

end Sys2Proof.Machine
end

/-! # What the lock table decides keeps the table and the ports sound -/

section
namespace Sys2Proof.Machine

theorem State.addLostAll_setLock (s : State) (l i : LockId) (k : Lock) (qs : List PortId) :
    (s.setLock l k).addLostAll qs i = (s.addLostAll qs i).setLock l k := by
  induction qs generalizing s with
  | nil => rfl
  | cons q qs ih => exact ih (s.onPort q fun r => r.addLost i)

/-- A request granted at once is one the grant rule admits, and leaves the queue settled (R42, R43, R47). -/
theorem Lock.recordSound.grantedAtOnce {k : Lock} (h : k.recordSound) {p : PortId} {w : Wanted}
    (hd : k.defined = true) (hp : k.waits p = false) (hg : k.grantedAtOnce p w = true) {lease : Option Tick}
    (hl : lease = none ↔ k.lease = 0) : (k.grant p w lease).recordSound ∧ (k.grant p w lease).settled := by
  have admitted : k.grantable ⟨p, w, none⟩ = true := by
    rw [Lock.grantable_iff]
    cases w with
    | shared =>
      simp only [Lock.grantedAtOnce, Bool.and_eq_true, decide_eq_true_eq] at hg
      exact hg.2
    | exclusive => exact h.free_iff.1 (by simpa [Lock.grantedAtOnce] using hg)
    | upgrade => exact (k.holderList_eq_singleton p).1 (by simpa [Lock.grantedAtOnce] using hg)
  have hr : (k.grant p w lease).recordSound := h.grant (x := ⟨p, w, none⟩) hd hp admitted hl
  refine ⟨hr, ?_⟩
  cases w with
  | shared =>
    simp only [Lock.grantedAtOnce, Bool.and_eq_true, List.isEmpty_iff] at hg
    exact Lock.settled_nil hg.1
  | exclusive => exact hr.settled_of_exclusive rfl
  | upgrade => exact hr.settled_of_exclusive rfl

/-- A request that is not granted at once is not grantable at the head of an empty queue (R38, R44). -/
theorem Lock.recordSound.not_grantable {k : Lock} (h : k.recordSound) {p : PortId} {w : Wanted} (d : Option Tick)
    (hg : ¬ k.grantedAtOnce p w = true) (hq : w ≠ .upgrade → k.queue = []) : k.grantable ⟨p, w, d⟩ = false := by
  rw [← Bool.not_eq_true, Lock.grantable_iff]
  cases w with
  | shared =>
    simp only [Lock.grantedAtOnce, hq (by decide), List.isEmpty_nil, Bool.true_and, decide_eq_true_eq] at hg
    exact hg
  | exclusive =>
    simp only [Lock.grantedAtOnce, decide_eq_true_eq, h.free_iff] at hg
    exact hg
  | upgrade =>
    simp only [Lock.grantedAtOnce, decide_eq_true_eq, Lock.holderList_eq_singleton] at hg
    exact hg

namespace State.front

variable {s : State}

/-! ## A port whose request is on its way -/

theorem mayEnd_of_outgoing {us : List LockId} {ps : List PortId} (h : s.front us ps) {p : PortId} {o : Outgoing}
    (ho : (s.port p).outgoing = some o) : s.mayEnd p := by
  obtain ⟨hs, hw, hf⟩ := (h.units p).exec_of_outgoing ho
  exact ⟨by rw [hs]; decide, hw, hf⟩

/-- A request granted at once (R39, R42, R43, R47). -/
theorem grantNow (h : s.front [] []) {p : PortId} (hp : s.mayEnd p) (m : Moment) {l : LockId} {w : Wanted}
    (hd : (s.lockAt l).defined = true) (hg : (s.lockAt l).grantedAtOnce p w = true) : (s.grantNow m l p w).front [] [] := by
  have hnot : ∀ i, (s.lockAt i).waits p = false := h.not_waits List.not_mem_nil hp.1
  obtain ⟨hr, hs⟩ := (h.record l).grantedAtOnce hd (hnot l) hg (leaseDeadline_eq_none s m (s.lockAt l).lease)
  have hset := h.setLock l hr (h.ranges_setLock rfl rfl rfl) (fun q hq => hq)
    (fun q hq hn => by rw [Lock.grant_waits, hq] at hn; cases hn) fun q hq => by
      rw [Lock.grant_holds, Bool.or_eq_true, decide_eq_true_eq] at hq
      refine hq.symm.imp_right fun e i => ?_
      rw [State.lockAt_setLock]
      split
      · rw [Lock.grant_waits, e]; exact hnot l
      · rw [e]; exact hnot i
  refine State.front.complete (hset.settle ?_) hp .none
  rw [State.lockAt_setLock_self]
  exact hs

/-- No waits-for cycle is closed by a wait the table does not refuse (R54): nothing that holds the lock reaches the port. -/
theorem not_reaches_of_wouldDeadlock {p : PortId} {l : LockId} (hd : s.wouldDeadlock p l = false) {b : PortId}
    (hb : (s.lockAt l).holds b = true) (hne : b ≠ p) :
    ¬ Relation.ReflTransGen (fun w h => s.waitsFor w h = true) b p := by
  intro hr
  rcases Relation.reflTransGen_iff_eq_or_transGen.1 hr with e | ht
  · exact hne e.symm
  · have : s.wouldDeadlock p l = true := by
      simp only [State.wouldDeadlock, List.any_eq_true]
      exact ⟨b, mem_allPorts b, by simp [hne, hb, (s.reaches_four_iff b p).2 ht]⟩
    rw [hd] at this
    cases this

/-- An entry placed in a queue: the record with it is sound and settled, and the wait closes no cycle (R37, R54). -/
theorem place (h : s.front [] []) {p : PortId} {r : HandedRequest} (ho : (s.port p).outgoing = some (.handed r)) {l : LockId}
    {k : Lock} (hk : k.recordSound) (hset : k.settled)
    (hsame : k.defined = (s.lockAt l).defined ∧ k.first = (s.lockAt l).first ∧ k.count = (s.lockAt l).count)
    (hw : ∀ q, k.waits q = (decide (q = p) || (s.lockAt l).waits q)) (hh : ∀ q, k.holds q = (s.lockAt l).holds q)
    (hd : s.wouldDeadlock p l = false) :
    ((s.setLock l k).onPort p fun q => { q with state := .waitLock, outgoing := none }).front [] [] := by
  obtain ⟨hexec, hwait, hfly⟩ := (h.units p).exec_of_outgoing ho
  have hnot : ∀ i, (s.lockAt i).waits p = false := h.not_waits List.not_mem_nil (by rw [hexec]; decide)
  have waits_iff : ∀ i q, ((s.setLock l k).lockAt i).waits q = true ↔ (i = l ∧ q = p) ∨ (s.lockAt i).waits q = true := by
    intro i q
    rw [State.lockAt_setLock]
    split
    · rename_i e; simp [e, hw]
    · rename_i e; simp [e]
  refine ⟨fun i => ?_, fun i _ => ?_, h.ranges_setLock hsame.1 hsame.2.1 hsame.2.2, fun q _ => ?_, (fun q hq => nomatch hq),
    fun q i j hi hj => ?_, ?_, State.units_update (p := p) h.units (fun q hq => ⟨State.port_onPort_ne _ _ hq, rfl, rfl⟩) ?_⟩
  · rw [State.lockAt_onPort, State.lockAt_setLock]
    split
    · exact hk
    · exact h.record i
  · rw [State.lockAt_onPort, State.lockAt_setLock]
    split
    · exact hset
    · exact h.settled i List.not_mem_nil
  · simp only [State.lockAt_onPort, waits_iff]
    rw [State.port_onPort]
    split
    · rename_i e
      exact iff_of_true rfl ⟨l, .inl ⟨rfl, e⟩⟩
    · rename_i e
      simpa [e] using h.waiting q List.not_mem_nil
  · rw [State.lockAt_onPort, waits_iff] at hi hj
    by_cases e : q = p
    · subst e
      simp only [hnot, Bool.false_eq_true, or_false] at hi hj
      rw [hi.1, hj.1]
    · simp only [e, and_false, false_or] at hi hj
      exact h.oneQueue q i j hi hj
  · refine State.noCycle_of_new_waiter (p := p) (H := fun b => (s.lockAt l).holds b = true ∧ b ≠ p) h.noCycle
      (fun a b hab => ?_) fun b hb => not_reaches_of_wouldDeadlock hd hb.1 hb.2
    obtain ⟨hne, i, ha, hb⟩ := (State.waitsFor_iff _ a b).1 hab
    rw [State.lockAt_onPort] at ha hb
    have hold : (s.lockAt i).holds b = true := by
      rw [State.lockAt_setLock] at hb
      split at hb
      · rename_i e; rwa [e, ← hh]
      · exact hb
    rcases (waits_iff i a).1 ha with ⟨rfl, rfl⟩ | ha
    · exact .inr ⟨rfl, hold, hne.symm⟩
    · exact .inl ((s.waitsFor_iff a b).2 ⟨hne, i, ha, hold⟩)
  · obtain ⟨hb, hu, hr, -, hheld, -⟩ := (Port.fits_exec hexec).1 (h.units p)
    have hf : ((s.setLock l k).onPort p fun q => { q with state := .waitLock, outgoing := none }).inFlight p = s.inFlight p := rfl
    rw [State.unitFits, State.port_onPort_self, hf, hfly, State.onPort_arbiter, State.setLock_arbiter, hwait]
    exact (Port.fits_waitLock rfl).2 ⟨⟨hb.1, by simp, hb.2.2⟩, hu, hr, rfl, hheld r ho, rfl, rfl⟩

section requests

variable (h : s.front [] []) {p : PortId} {r : HandedRequest} (ho : (s.port p).outgoing = some (.handed r))
include h ho

/-- The last steps of a request that may wait: what is left is that its entry fits the queue (R41, R46). -/
theorem waitOrRefuse (m : Moment) (l : LockId) (w : Wanted) (limit : Byte)
    (hplace : s.wouldDeadlock p l = false → (s.placeEntry m l p w limit).front [] []) :
    (s.waitOrRefuse m l p w limit).front [] [] := by
  rcases s.waitOrRefuse_cases m l p w limit with ⟨-, e⟩ | ⟨-, -, e⟩ | ⟨-, hd, e⟩ <;> rw [e]
  · exact h.complete (h.mayEnd_of_outgoing ho) _
  · exact h.complete (h.mayEnd_of_outgoing ho) _
  · exact hplace hd

theorem takeAcquire (l : LockId) {w : Wanted} (hw : w ≠ .upgrade) (limit : Byte) :
    (s.takeAcquire p l w limit).front [] [] := by
  have hp := h.mayEnd_of_outgoing ho
  have hnot := h.not_waits List.not_mem_nil hp.1 l
  simp only [State.takeAcquire]
  split_ifs with hd hh hg
  · exact h.complete hp _
  · exact h.complete hp _
  · exact h.grantNow hp _ (by simpa using hd) hg
  · have hd : (s.lockAt l).defined = true := by simpa using hd
    have hh : (s.lockAt l).holds p = false := by simpa using hh
    refine h.waitOrRefuse ho _ l w limit fun hdead => ?_
    have hqueue : s.placeEntry .betweenTicks l p w limit =
        (s.setLock l { s.lockAt l with queue := (s.lockAt l).queue ++ [⟨p, w, s.waitDeadline .betweenTicks limit⟩] }).onPort p
          fun q => { q with state := .waitLock, outgoing := none } := by
      cases w with
      | shared => rfl
      | exclusive => rfl
      | upgrade => exact absurd rfl hw
    rw [hqueue]
    refine h.place ho ((h.record l).enqueue hd _ hw hnot hh) (Lock.settled_enqueue (h.settled l List.not_mem_nil) fun hq =>
      (h.record l).not_grantable _ hg fun _ => hq) ⟨rfl, rfl, rfl⟩ (fun q => ?_) (fun _ => rfl) hdead
    simp [Lock.waits, Bool.or_comm, eq_comm]

theorem takeUpgrade (l : LockId) (limit : Byte) : (s.takeUpgrade p l limit).front [] [] := by
  have hp := h.mayEnd_of_outgoing ho
  have hnot := h.not_waits List.not_mem_nil hp.1 l
  simp only [State.takeUpgrade]
  split_ifs with hd hx hh hg hu
  · exact h.complete hp _
  · exact h.complete hp _
  · exact h.complete hp _
  · exact h.grantNow hp _ (by simpa using hd) hg
  · exact h.complete hp _
  · have hholds : (s.lockAt l).holds p = true := by simpa using hh
    have hmode : (s.lockAt l).mode = .shared := by
      cases hm : (s.lockAt l).mode with
      | free =>
        rw [(h.record l).free_iff.1 hm p] at hholds
        cases hholds
      | shared => rfl
      | exclusive => simp [hholds, hm] at hx
    refine h.waitOrRefuse ho _ l .upgrade limit fun hdead => h.place ho
      ((h.record l).enqueueUpgrade _ hnot hholds hmode (by simpa using hu)) (fun w hw => ?_) ⟨rfl, rfl, rfl⟩ (fun q => ?_)
      (fun _ => rfl) hdead
    · cases hw
      exact (h.record l).not_grantable _ hg (absurd rfl)
    · simp [Lock.waits, eq_comm]

theorem takeDowngrade (l : LockId) : (s.takeDowngrade p l).front [] [] := by
  have hp := h.mayEnd_of_outgoing ho
  simp only [State.takeDowngrade]
  split_ifs with hd hh
  · exact h.complete hp _
  · exact h.complete hp _
  · simp only [Bool.not_eq_true, Bool.not_eq_false', Bool.and_eq_true, decide_eq_true_eq] at hh
    have hset : (s.setLock l { s.lockAt l with mode := .shared }).front [l] [] :=
      h.leave l ((h.record l).downgrade hh.2) ⟨rfl, rfl, rfl⟩ (fun q hq => hq)
        (fun q hq hn => absurd hq (by rw [show (s.lockAt l).waits q = false from hn]; decide)) fun q hq => hq
    exact (hset.reexamine _).complete (State.mayEnd.reexamine (s := s.setLock l _) hp _ l) _

theorem takeRelease (l : LockId) : (s.takeRelease p l).front [] [] := by
  have hp := h.mayEnd_of_outgoing ho
  have hnot := h.not_waits List.not_mem_nil hp.1 l
  simp only [State.takeRelease]
  split_ifs with hd hh
  · exact h.complete hp _
  · exact h.complete hp _
  · have hset : (s.setLock l ((s.lockAt l).dropHold p)).front [l] [] :=
      h.leave l ((h.record l).dropHold hnot) ⟨rfl, rfl, rfl⟩ (fun q hq => hq)
        (fun q hq hn => absurd hq (by rw [show (s.lockAt l).waits q = false from hn]; decide))
        fun q hq => by rw [Lock.dropHold_holds, Bool.and_eq_true] at hq; exact hq.2
    exact (hset.reexamine _).complete (State.mayEnd.reexamine (s := s.setLock l _) hp _ l) _

theorem takeRenew (l : LockId) : (s.takeRenew p l).front [] [] := by
  have hp := h.mayEnd_of_outgoing ho
  simp only [State.takeRenew]
  split_ifs with hd hh hz
  · exact h.complete hp _
  · exact h.complete hp _
  · exact h.complete hp _
  · obtain ⟨hk, hsame⟩ := (h.record l).renew (p := p) (by simpa using hh)
      (leaseDeadline_eq_none s .betweenTicks (s.lockAt l).lease)
    have hset := h.leave l hk ⟨rfl, rfl, rfl⟩ (fun q hq => hq)
      (fun q hq hn => absurd hq (by rw [show (s.lockAt l).waits q = false from hn]; decide))
      fun q hq => by rwa [hsame] at hq
    refine State.front.complete (hset.settle ?_) hp _
    rw [State.lockAt_setLock_self]
    intro w hw
    exact (Lock.grantable_congr (k := s.lockAt l) (by rfl) hsame w).trans (h.settled l List.not_mem_nil w hw)

theorem takeQuery (l : LockId) : (s.takeQuery p l).front [] [] := by
  have hp := h.mayEnd_of_outgoing ho
  obtain ⟨hexec, hw, hf⟩ := (h.units p).exec_of_outgoing ho
  obtain ⟨-, hu, hr, -, hheld, -⟩ := (Port.fits_exec hexec).1 (h.units p)
  simp only [State.takeQuery]
  split_ifs with hd
  · exact h.complete hp _
  · refine h.onPort p (iff_of_false ?_ hp.1) ?_
    · split_ifs <;> simp
    · rw [hw, hf]
      split_ifs with ha
      · exact Port.fits_complete (q := { s.port p with staging := s.lockRecord l, index := 0 })
          ⟨Nat.zero_le _, (h.units p).sized.2⟩ _
      · refine Port.engaged.offerBytes (q := { s.port p with outgoing := none }) ⟨(h.units p).sized, hu, hr, rfl, ?_⟩ _
        have hreset := hheld r ho
        show (s.port p).held = none
        rcases he : (s.port p).held with _ | _ | _
        · rfl
        · exact absurd he ha
        · exact absurd he hreset

theorem takeUndefine (l : LockId) : (s.takeUndefine p l).front [] [] := by
  have hp := h.mayEnd_of_outgoing ho
  simp only [State.takeUndefine]
  split_ifs with hd hb
  · exact h.complete hp _
  · exact h.complete hp _
  · obtain ⟨-, hq⟩ := not_or.1 hb
    have hq : (s.lockAt l).queue = [] := not_not.1 hq
    have hranges : (s.setLock l Lock.reset).rangesDisjoint := by
      intro i j hij hi
      rw [State.lockAt_setLock] at hi ⊢
      split
      · rfl
      · rw [State.lockAt_setLock]
        split at hi
        · cases hi
        · rw [if_neg ‹_›]
          exact h.ranges i j hij hi
    have hset := h.setLock l Lock.recordSound_reset hranges (fun q hq => nomatch hq)
      (fun q hw => by simp [Lock.waits, hq] at hw) fun q hh => by rw [Lock.holds_reset] at hh; cases hh
    refine State.front.complete (hset.settle ?_) hp _
    rw [State.lockAt_setLock_self]
    exact Lock.settled_nil rfl

theorem takePost (target : PortId) (code tag : Byte) : (s.takePost p target code tag).front [] [] := by
  have hp := h.mayEnd_of_outgoing ho
  simp only [State.takePost]
  split_ifs with hn
  · have happ := h.onPort target (f := fun q => q.appendNote ⟨p, code, tag⟩) Iff.rfl ((h.units target).appendNote _ hn)
    refine happ.complete (hp.keep (s.keepsBehind_onPort _ _) (.inl ?_)) _
    rw [State.port_onPort]
    split
    · rename_i e; rw [e]; rfl
    · rfl
  · exact h.complete hp _

end requests

/-- DEFINE LOCK, whose range passed its check at acceptance (R24, R25). -/
theorem takeDefine (h : s.front [] []) {p : PortId} {l : LockId} {first : BlockNo} {count lease : Byte}
    (ho : (s.port p).outgoing = some (.handed (.defineLock l first count lease))) :
    (s.takeDefine p l first count lease).front [] [] := by
  have hp := h.mayEnd_of_outgoing ho
  simp only [State.takeDefine]
  split_ifs with hd hm
  · exact h.complete hp _
  · exact h.complete hp _
  · have hd : s.lockAt l = Lock.reset := (h.record l).eq_reset (by simpa using hd)
    have hm : ∀ i, i ≠ l → (s.lockAt i).meets first count = false := by
      simpa [mem_allLocks] using hm
    have hranges : (s.setLock l ⟨true, first, count, lease, .free, Vector.replicate 4 none, []⟩).rangesDisjoint := by
      intro i j hij hi
      rw [State.lockAt_setLock] at hi
      rw [State.lockAt_setLock, State.lockAt_setLock]
      split
      · rename_i hj
        have hil : i ≠ l := fun e => hij (e.trans hj.symm)
        have := hm i hil
        rw [if_neg hil] at hi ⊢
        simp only [Lock.meets, hi, Bool.true_and, decide_eq_false_iff_not] at this ⊢
        rw [max_comm, min_comm]
        exact this
      · split
        · exact hm j ‹_›
        · rw [if_neg ‹_›] at hi
          exact h.ranges i j hij hi
    have hholds : ∀ q, Lock.holds ⟨true, first, count, lease, .free, Vector.replicate 4 none, []⟩ q = false := fun q => by
      simp [Lock.holds]
    have hset := h.setLock l (Lock.recordSound_defined lease ((h.units p).defineChecked _ _ _ _ ho)) hranges
      (fun q hq => nomatch hq) (fun q hw => by rw [hd] at hw; cases hw) fun q hh => by rw [hholds] at hh; cases hh
    refine State.front.complete (hset.settle ?_) hp _
    rw [State.lockAt_setLock_self]
    exact Lock.settled_nil rfl

/-- Lost sets grow, and nothing else changes (R29). -/
theorem addLostAll (h : s.front [] []) (qs : List PortId) (l : LockId) : (s.addLostAll qs l).front [] [] := by
  have hb := s.keepsBehind_addLostAll qs l
  refine h.update (fun i => by simp only [State.lockAt, (s.addLostAll_rest qs l).1]) (fun _ => id) (fun q _ => ?_)
    (fun q hq => nomatch hq) fun q => ?_
  · rw [State.port_addLostAll]
    split <;> rfl
  · have hfly : (s.addLostAll qs l).inFlight q = s.inFlight q := by simp only [State.inFlight, hb.1]
    rw [State.unitFits, State.port_addLostAll, hb.2.1, hfly]
    split
    · exact (h.units q).addLost l
    · exact h.units q

/-- A port has one entry in a queue, so an UPGRADE waiter is not among the others. -/
theorem not_waits_without_upgrades {k : Lock} (h : k.recordSound) {w : Waiter} (hw : w ∈ k.queue) (hu : w.want = .upgrade) :
    Lock.waits { k with
      mode := .free, holders := Vector.replicate 4 none, queue := k.queue.filter fun w => w.want ≠ .upgrade } w.port =
      false := by
  refine (Lock.waits_eq_false _ _).2 fun x hx e => ?_
  obtain ⟨hx, hne⟩ := List.mem_filter.1 hx
  have := List.inj_on_of_nodup_map h.nodup hx hw e
  rw [this, hu] at hne
  simp at hne

/-- BREAK LOCK (R29): the holders go, the UPGRADE waiters end HOLD_LOST, and the queue is re-examined. -/
theorem takeBreak (h : s.front [] []) {p : PortId} {r : HandedRequest} (ho : (s.port p).outgoing = some (.handed r))
    (l : LockId) : (s.takeBreak p l).front [] [] := by
  have hp := h.mayEnd_of_outgoing ho
  have hnot := h.not_waits List.not_mem_nil hp.1 l
  simp only [State.takeBreak]
  split_ifs with hd
  · exact h.complete hp _
  · generalize hks : (s.lockAt l).holderList = hs
    generalize hls : ((s.lockAt l).queue.filter fun w => w.want = .upgrade).map Waiter.port = losers
    have hlosers : ∀ q ∈ losers, ∃ w ∈ (s.lockAt l).queue, w.want = .upgrade ∧ w.port = q := by
      intro q hq
      rw [← hls] at hq
      obtain ⟨w, hw, rfl⟩ := List.mem_map.1 hq
      obtain ⟨hw, hu⟩ := List.mem_filter.1 hw
      exact ⟨w, hw, by simpa using hu, rfl⟩
    have hwaits : ∀ q ∈ losers, (s.lockAt l).waits q = true := fun q hq => by
      obtain ⟨w, hw, -, rfl⟩ := hlosers q hq
      exact Lock.waits_of_mem _ hw
    have hlost := h.addLostAll hs l
    have hlock : ∀ i, (s.addLostAll hs l).lockAt i = s.lockAt i := fun i => by
      simp only [State.lockAt, (s.addLostAll_rest hs l).1]
    have hfront := hlost.partAll losers .holdLost fun q hq => hlost.free_of_waits (by rw [hlock]; exact hwaits q hq)
    have hrec := (h.record l).broken (by simpa using hd)
    have hlock' : ∀ i, ((s.addLostAll hs l).completeAll losers .holdLost).lockAt i = s.lockAt i := fun i => by
      rw [State.lockAt_completeAll, hlock]
    have hgone : ∀ q ∈ losers, Lock.waits { s.lockAt l with
        mode := .free, holders := Vector.replicate 4 none, queue := (s.lockAt l).queue.filter fun w => w.want ≠ .upgrade } q =
        false := fun q hq => by
      obtain ⟨w, hw, hu, rfl⟩ := hlosers q hq
      exact not_waits_without_upgrades (h.record l) hw hu
    have hset := hfront.leave l hrec (by rw [hlock']; exact ⟨rfl, rfl, rfl⟩) (fun q hq => ?_) (fun q hq hn => ?_)
      fun q hq => ?_
    · rw [State.addLostAll_setLock, setLock_completeAll]
      refine State.front.complete (State.front.reexamine (hset.rejoin fun q hq i => ?_) _) (State.mayEnd.reexamine ?_ _ l) _
      · rw [State.lockAt_setLock]
        split
        · exact hgone q hq
        · rename_i hi
          rw [hlock']
          by_contra hn
          exact hi (h.oneQueue q i l (by simpa using hn) (hwaits q hq))
      · refine hp.keep ((s.keepsBehind_addLostAll hs l).trans (State.keepsBehind_completeAll _ _ _)) (.inl ?_)
        have hpl : p ∉ losers := fun hm => by
          rw [hwaits p hm] at hnot; cases hnot
        rw [State.port_setLock, State.port_completeAll, if_neg hpl, State.port_addLostAll]
        split <;> rfl
    · rw [hlock']
      obtain ⟨w, hw, rfl⟩ := List.mem_map.1 ((Lock.waits_iff _ q).1 hq)
      exact Lock.waits_of_mem _ (List.mem_filter.1 hw).1
    · rw [hlock'] at hq
      obtain ⟨w, hw, rfl⟩ := List.mem_map.1 ((Lock.waits_iff _ q).1 hq)
      have hu : w.want = .upgrade := by
        by_contra hne
        exact (Lock.waits_eq_false _ _).1 hn w (List.mem_filter.2 ⟨hw, by simpa using hne⟩) rfl
      rw [List.append_nil, ← hls]
      exact List.mem_map_of_mem (List.mem_filter.2 ⟨hw, by simpa using hu⟩)
    · simp [Lock.holds] at hq

/-! ## Deadlines and withdrawals -/

theorem expireLease (h : s.front [] []) (l : LockId) (p : PortId) : (s.expireLease l p).front [] [] := by
  simp only [State.expireLease]
  split
  · exact h
  · rename_i e he
    have hholds : (s.lockAt l).holds p = true := by simp only [Lock.holds, he]; rfl
    have hlost := h.onPort p (f := fun q => q.addLost l) Iff.rfl ((h.units p).addLost l)
    split_ifs with hdue hu
    · have hw : (s.lockAt l).waits p = true := by
        obtain ⟨w, hw, hwp⟩ := List.any_eq_true.1 hu
        simp only [decide_eq_true_eq] at hwp
        exact hwp.1 ▸ Lock.waits_of_mem _ hw
      exact (hlost.depart (l := l) hw (k := ((s.lockAt l).dropHold p).removeEntry p)
        (((h.record l).removeEntry p).dropHold (by simp)) ⟨rfl, rfl, rfl⟩ (fun q => by simp)
        (fun q hq => by simp at hq; exact hq.2) .holdLost).reexamine .atTick
    · have hw : (s.lockAt l).waits p = false := by
        by_contra hn
        exact hu ((h.record l).upgrades_of_waits hholds (by simpa using hn))
      exact (hlost.leave l (k := (s.lockAt l).dropHold p) ((h.record l).dropHold hw) ⟨rfl, rfl, rfl⟩ (fun q hq => hq)
        (fun q hq hn => absurd hq (by rw [State.lockAt_onPort, show (s.lockAt l).waits q = false from hn]; decide))
        (fun q hq => by simp at hq; exact hq.2)).reexamine .atTick
    · exact h

/-- An entry goes, its port's command ends, and the queue is re-examined (R56, R71). -/
theorem removeWaiter (h : s.front [] []) {l : LockId} {p : PortId} (hp : (s.lockAt l).waits p = true) (e : ErrorKind)
    (m : Moment) : (((s.setLock l ((s.lockAt l).removeEntry p)).complete p e).reexamine m l).front [] [] :=
  (h.depart hp ((h.record l).removeEntry p) ⟨rfl, rfl, rfl⟩ (fun q => by simp) (fun q hq => hq) e).reexamine m

theorem timeoutWait (h : s.front [] []) (l : LockId) (p : PortId) : (s.timeoutWait l p).front [] [] := by
  simp only [State.timeoutWait]
  split
  · exact h
  · rename_i w hw
    split_ifs
    · have hwp : w.port = p := by simpa using List.find?_some hw
      exact h.removeWaiter (hwp ▸ Lock.waits_of_mem _ (List.mem_of_find?_eq_some hw)) _ _
    · exact h

theorem withdrawEntry (h : s.front [] []) (p : PortId) : (s.withdrawEntry p).front [] [] := by
  simp only [State.withdrawEntry]
  split_ifs
  · split
    · exact h
    · rename_i l hl
      exact h.removeWaiter (by simpa using List.find?_some hl) _ _
  · exact h

theorem withdrawHanded (h : s.front [] []) (p : PortId) : (s.withdrawHanded p).front [] [] := by
  simp only [State.withdrawHanded]
  split
  · rename_i ho _
    exact h.complete (h.mayEnd_of_outgoing ho) _
  · exact h.withdrawEntry p

end State.front

end Sys2Proof.Machine
end

/-! # Grants and the ends of transfers keep the part sound -/

section
namespace Sys2Proof.Machine

/-! ## A request moves from place to place -/

theorem State.inFlight_none {s : State} (h : s.pool.transfer = none) (q : PortId) : s.inFlight q = false := by
  simp only [State.inFlight, h]

theorem State.inFlight_some {s : State} {t : Transfer} (h : s.pool.transfer = some t) (q : PortId) :
    s.inFlight q = decide (t.requester = .port q) := by
  simp only [State.inFlight, h]

/-- The two states have the same ports and locks, and differ of the ports' requests at most in the place of port `p`'s. -/
abbrev State.movesRequestOf (s t : State) (p : PortId) : Prop :=
  t.ports = s.ports ∧ t.locks = s.locks ∧
    ∀ q, q ≠ p → t.arbiter.waiting[q] = s.arbiter.waiting[q] ∧ t.inFlight q = s.inFlight q

namespace State.front

variable {s t : State}

/-- What the table and the port units look at is the same. -/
theorem same (h : s.front [] []) (hp : t.ports = s.ports) (hl : t.locks = s.locks)
    (hr : ∀ q : PortId, t.arbiter.waiting[q] = s.arbiter.waiting[q] ∧ t.inFlight q = s.inFlight q) : t.front [] [] := by
  have hport : ∀ q, t.port q = s.port q := fun q => by simp only [State.port, hp]
  refine h.update (fun l => by simp only [State.lockAt, hl]) (fun _ => id) (fun q _ => by rw [hport]) (fun q hq => nomatch hq)
    fun q => ?_
  rw [State.unitFits, hport, (hr q).1, (hr q).2]
  exact h.units q

theorem moved {p : PortId} (h : s.front [] []) (hm : s.movesRequestOf t p) {f : Port → Port}
    (hw : (f (s.port p)).state = .waitLock ↔ (s.port p).state = .waitLock)
    (hf : (f (s.port p)).fits t.arbiter.waiting[p].isSome (t.inFlight p)) : (t.onPort p f).front [] [] := by
  obtain ⟨hp, hl, hr⟩ := hm
  have hport : ∀ q, t.port q = s.port q := fun q => by simp only [State.port, hp]
  refine h.update (fun l => by simp only [State.lockAt, State.onPort_locks, hl]) (fun _ => id) (fun q _ => ?_)
    (fun q hq => nomatch hq) (State.units_update (p := p) h.units (fun q hq => ⟨?_, (hr q hq).1, (hr q hq).2⟩) ?_)
  · rw [State.port_onPort, hport, hport]
    split
    · rename_i e; rw [e]; exact hw
    · exact Iff.rfl
  · rw [State.port_onPort_ne _ _ hq, hport]
  · rw [State.unitFits, State.port_onPort_self, hport]
    exact hf

theorem moved_reset {p : PortId} (h : s.front [] []) (hm : s.movesRequestOf t p)
    (hw : t.arbiter.waiting[p].isSome = false) (hf : t.inFlight p = false) (m : Moment) :
    (t.portResetEffect m p).front [] [] := by
  obtain ⟨hp, hl, hr⟩ := hm
  have hport : ∀ q, t.port q = s.port q := fun q => by simp only [State.port, hp]
  unfold State.portResetEffect
  refine State.front.resetAtTable ?_ m
  refine h.update (fun l => by simp only [State.lockAt, State.onPort_locks, hl]) (fun q hq => nomatch hq) (fun q hq => ?_)
    (fun q hq => ?_) (State.units_update (p := p) h.units (fun q hq => ⟨?_, (hr q hq).1, (hr q hq).2⟩) ?_)
  · rw [State.port_onPort_ne _ _ (fun e => hq (List.mem_singleton.2 e)), hport]
  · rw [List.mem_singleton.1 hq, State.port_onPort_self]
    rfl
  · rw [State.port_onPort_ne _ _ hq, hport]
  · rw [State.unitFits, State.port_onPort_self, State.onPort_arbiter, hw, show (t.onPort p _).inFlight p = false from hf]
    exact Port.fits_reset

end State.front

/-! ## Port states after a result -/

theorem Port.nextBlock_state (q : Port) : q.nextBlock.state ≠ .waitLock := by
  simp only [Port.nextBlock]
  split <;> simp

theorem Port.finishBlock_state (q : Port) : q.finishBlock.state ≠ .waitLock := by
  simp only [Port.finishBlock]
  split_ifs
  · simp
  · exact Port.nextBlock_state _

theorem Port.takeResult_state (q : Port) (t : Transfer) : (q.takeResult t).state ≠ .waitLock := by
  simp only [Port.takeResult]
  split
  · simp
  · split
    · simp
    · exact Port.finishBlock_state _

theorem Port.settleAbort_state (q : Port) (t : Transfer) : (q.settleAbort t).state = .ready := rfl

/-! ## The choice of the arbiter -/

theorem Arbiter.mem_portOrder (a : Arbiter) (p : PortId) : p ∈ a.portOrder := by
  have rotated : ∀ r p : PortId, p ∈ [r + 1, r + 2, r + 3, r] := by decide
  simp only [Arbiter.portOrder]
  split
  · exact rotated _ p
  · exact mem_allPorts p

/-- No request is chosen exactly if none waits (R82). -/
theorem Arbiter.choose_eq_none (a : Arbiter) :
    a.choose = none ↔ (∀ p : PortId, a.waiting[p] = none) ∧ a.scrubReq = none := by
  have hfind : (a.portOrder.find? fun p => a.waiting[p].isSome) = none ↔ ∀ p : PortId, a.waiting[p] = none := by
    simp [a.mem_portOrder]
  simp only [Arbiter.choose]
  split
  · rename_i hs
    exact iff_of_false (by simp) fun ⟨_, hn⟩ => by simp [hn] at hs
  · split
    · rename_i p hp
      exact iff_of_false (by simp) fun ⟨hn, _⟩ => by rw [hfind.2 hn] at hp; cases hp
    · rename_i hp
      split
      · rename_i hr
        exact iff_of_false (by simp) fun ⟨_, hn⟩ => by simp [hn] at hr
      · rename_i hr
        exact iff_of_true rfl ⟨hfind.1 hp, by simpa using hr⟩

/-- A port is chosen only while the scrub request has not let 16 grants pass (R82, R84). -/
theorem Arbiter.scrubWait_lt_of_choose {a : Arbiter} {p : PortId} (h : a.choose = some (.port p))
    (hs : a.scrubReq.isSome) : a.scrubWait < 16 := by
  simp only [Arbiter.choose] at h
  split at h
  · cases h
  · rename_i hc
    by_contra hn
    exact hc ⟨hs, Nat.not_lt.1 hn⟩

/-! ## Grants -/

/-- The scrub-wait count stays within its bound (R80, R84). -/
abbrev Arbiter.countSound (a : Arbiter) : Prop := a.scrubWait ≤ 16 ∧ (a.scrubReq = none → a.scrubWait = 0)

/-- All but the pool is sound, except that requests may wait while the controller is IDLE: the state between the parts of one
event, before its grants are made (R81). -/
structure State.beforeGrants (s : State) : Prop where
  front : s.front [] []
  count : s.arbiter.countSound
  scrubber : s.scrubberSound

/-- All but the pool is sound. -/
abbrev State.controlSound (s : State) : Prop := s.tableSound ∧ s.unitsSound

theorem State.controlSound_iff (s : State) :
    s.controlSound ↔ s.beforeGrants ∧ (s.pool.transfer = none → s.arbiter.choose = none) := by
  constructor
  · rintro ⟨ht, hu, ⟨hc, hz, hn⟩, hs⟩
    exact ⟨⟨s.front_iff.2 ⟨ht, hu⟩, ⟨hc, hz⟩, hs⟩, hn⟩
  · rintro ⟨⟨hf, ⟨hc, hz⟩, hs⟩, hn⟩
    obtain ⟨ht, hu⟩ := s.front_iff.1 hf
    exact ⟨ht, hu, ⟨hc, hz, hn⟩, hs⟩

theorem Arbiter.countSound.grantedPort {a : Arbiter} {p : PortId} (h : a.countSound) (hp : a.choose = some (.port p)) :
    (a.grantedPort p).countSound := by
  simp only [Arbiter.countSound, Arbiter.grantedPort]
  split_ifs with hs
  · exact ⟨a.scrubWait_lt_of_choose hp hs, fun hn => by simp [hn] at hs⟩
  · exact h

theorem Arbiter.countSound_withdrawScrub (a : Arbiter) : a.withdrawScrub.countSound := ⟨Nat.zero_le _, fun _ => rfl⟩

/-- The scrubber is as sound as before where neither it nor its request changed, nor whether a scrub is in flight. -/
theorem State.scrubberSound_congr {s t : State} (h : s.scrubberSound) (hc : t.scrubber = s.scrubber)
    (hr : t.arbiter.scrubReq = s.arbiter.scrubReq) (hs : t.scrubs = s.scrubs) : t.scrubberSound := by
  simp only [State.scrubberSound, hc, hr, hs]
  exact h

section scrubberPhases

variable {s : State}

/-! What a sound scrubber has in each phase (R147). -/

theorem State.scrubberSound_off (h : s.scrubber.phase = .off) : s.scrubberSound ↔
    s.scrubber.interval = 0 ∧ s.scrubber.timer = none ∧ s.arbiter.scrubReq = none ∧ s.scrubs = false := by
  simp [State.scrubberSound, h]

theorem State.scrubberSound_timing (h : s.scrubber.phase = .timing) : s.scrubberSound ↔
    s.scrubber.interval ≠ 0 ∧ s.scrubber.timer.isSome ∧ s.arbiter.scrubReq = none ∧ s.scrubs = false := by
  simp [State.scrubberSound, h]

theorem State.scrubberSound_requested (h : s.scrubber.phase = .requested) : s.scrubberSound ↔
    s.scrubber.interval ≠ 0 ∧ s.scrubber.timer = none ∧ s.arbiter.scrubReq = some s.scrubber.position ∧ s.scrubs = false := by
  simp [State.scrubberSound, h]

theorem State.scrubberSound_scrubbing (h : s.scrubber.phase = .scrubbing) : s.scrubberSound ↔
    s.scrubber.timer = none ∧ s.arbiter.scrubReq = none ∧ s.scrubs = true := by
  simp [State.scrubberSound, h]

end scrubberPhases

/-- The end of a step leaves the scrubber in OFF or TIMING (R150). -/
theorem State.scrubberSound_endStep {s : State} {c : Scrubber} {m : Moment} (hc : s.scrubber = c.endStep m)
    (hr : s.arbiter.scrubReq = none) (hs : s.scrubs = false) : s.scrubberSound := by
  simp only [Scrubber.endStep] at hc
  split_ifs at hc with h
  · exact (State.scrubberSound_off (by rw [hc]; rfl)).2 (by rw [hc]; exact ⟨h, rfl, hr, hs⟩)
  · exact (State.scrubberSound_timing (by rw [hc]; rfl)).2 (by rw [hc]; exact ⟨h, rfl, hr, hs⟩)

namespace State.beforeGrants

variable {s : State}

/-- A port's grant: its transfer begins, or its command ends refused (R83). -/
theorem grantPort (h : s.beforeGrants) (m : Moment) (ht : s.pool.transfer = none) {p : PortId}
    (hp : s.arbiter.choose = some (.port p)) : (s.grantPort m p).beforeGrants := by
  obtain ⟨r, hr⟩ := Option.isSome_iff_exists.1 (s.arbiter.choose_waits.2 p hp)
  have hunit : (s.port p).fits true (s.inFlight p) := by
    have := h.front.units p
    rwa [State.unitFits, hr] at this
  obtain ⟨hexec, hout, hfly⟩ := hunit.exec_of_waits
  obtain ⟨hb, hu, hrun, hdef, hheld, -⟩ := (Port.fits_exec hexec).1 hunit
  have hcount := h.count.grantedPort hp
  have hwait : ∀ q, q ≠ p → (s.arbiter.grantedPort p).waiting[q] = s.arbiter.waiting[q] := fun q hq => by
    simp only [Arbiter.grantedPort, getElem_set_port, if_neg hq]
  have hgone : (s.arbiter.grantedPort p).waiting[p] = none := by
    simp only [Arbiter.grantedPort, getElem_set_port, if_true]
  have hscrubs : s.scrubs = false := by simp only [State.scrubs, ht]
  rcases s.grantPort_cases m p r hr with ⟨-, e⟩ | ⟨-, e⟩ <;> rw [e]
  · have hx : (s.transferOf p r).requester = .port p := by
      simp only [State.transferOf]
      split <;> rfl
    have hmoved : s.movesRequestOf
        { s with arbiter := s.arbiter.grantedPort p, pool := { s.pool with transfer := some (s.transferOf p r) } } p :=
      ⟨rfl, rfl, fun q hq => ⟨hwait q hq, by
        rw [State.inFlight_some rfl, State.inFlight_none ht, hx]
        simpa using hq.symm⟩⟩
    refine ⟨h.front.moved hmoved ?_ ?_, hcount, State.scrubberSound_congr h.scrubber rfl rfl ?_⟩
    · split_ifs <;> simp [hexec]
    · rw [hgone, State.inFlight_some rfl, hx, decide_eq_true rfl]
      split_ifs with hh
      · exact (Port.fits_aborting rfl).2 ⟨⟨hb.1, by simp, hb.2.2⟩, hu, hrun, hout, hh, rfl, rfl⟩
      · exact (Port.fits_exec hexec).2 ⟨hb, hu, hrun, hdef, hheld, .inr (.inr ⟨hout, rfl, rfl, by simpa using hh⟩)⟩
    · rw [hscrubs]
      show decide ((s.transferOf p r).requester = .scrubber) = false
      rw [hx]
      rfl
  · have hmoved : s.movesRequestOf { s with arbiter := s.arbiter.grantedPort p } p := ⟨rfl, rfl, fun q hq => ⟨hwait q hq, rfl⟩⟩
    obtain ⟨hpool, harb, hscrub, -⟩ := State.refuseGrant_rest { s with arbiter := s.arbiter.grantedPort p } m p
    refine ⟨?_, by rw [harb]; exact hcount, State.scrubberSound_congr h.scrubber hscrub (by rw [harb]; rfl)
      (by simp only [State.scrubs, hpool])⟩
    simp only [State.refuseGrant]
    split_ifs
    · exact h.front.moved_reset hmoved (by simp only [hgone]; rfl) hfly m
    · refine h.front.moved hmoved (iff_of_false (by simp) (by simp [hexec])) ?_
      rw [hgone, show State.inFlight { s with arbiter := s.arbiter.grantedPort p } p = false from hfly]
      refine Port.fits_complete ?_ _
      split
      · exact ⟨Nat.zero_le _, hunit.sized.2⟩
      · exact hunit.sized

/-- The scrubber's grant: a scrub begins, or a skip ends the step (R83, R84, R149). -/
theorem grantScrub (h : s.beforeGrants) (m : Moment) (ht : s.pool.transfer = none) : (s.grantScrub m).beforeGrants := by
  simp only [State.grantScrub]
  split
  · exact h
  · rename_i b hb
    have hphase : s.scrubber.phase = .requested := by
      obtain ⟨-, -, -, -, hreq, -⟩ := h.scrubber
      by_contra hn
      rw [hreq hn] at hb
      cases hb
    obtain ⟨-, htimer, -⟩ := (State.scrubberSound_requested hphase).1 h.scrubber
    have hscrubs : s.scrubs = false := by simp only [State.scrubs, ht]
    have skipped : State.beforeGrants
        { s with arbiter := s.arbiter.withdrawScrub, scrubber := s.scrubber.endStep m } :=
      ⟨h.front.same rfl rfl fun q => ⟨rfl, rfl⟩, Arbiter.countSound_withdrawScrub _,
        State.scrubberSound_endStep rfl rfl hscrubs⟩
    split
    · refine ⟨h.front.same rfl rfl fun q => ⟨rfl, ?_⟩, Arbiter.countSound_withdrawScrub _,
        (State.scrubberSound_scrubbing rfl).2 ⟨htimer, rfl, rfl⟩⟩
      rw [State.inFlight_some rfl, State.inFlight_none ht]
      rfl
    · exact skipped
    · exact skipped

theorem grantOne (h : s.beforeGrants) (m : Moment) : (s.grantOne m).beforeGrants := by
  simp only [State.grantOne]
  split
  · exact h
  · rename_i ht
    split
    · exact h
    · exact h.grantPort m ht ‹_›
    · exact h.grantScrub m ht

/-- A grant that is possible is made: it takes its request away. -/
theorem grantOne_ne_self (s : State) (m : Moment) (ht : s.pool.transfer = none) (hc : s.arbiter.choose ≠ none) :
    s.grantOne m ≠ s := by
  intro e
  obtain ⟨c, hc⟩ := Option.ne_none_iff_exists'.1 hc
  cases c with
  | port p =>
    have hw := s.arbiter.choose_waits.2 p hc
    obtain ⟨r, hr⟩ := Option.isSome_iff_exists.1 hw
    have taken : (s.grantOne m).arbiter = s.arbiter.grantedPort p := by
      simp only [State.grantOne, ht, hc]
      rcases s.grantPort_cases m p r hr with ⟨-, h⟩ | ⟨-, h⟩ <;> rw [h]
      · rfl
      · rw [(State.refuseGrant_rest _ m p).2.1]
    have count := Arbiter.waitCount_grantedPort _ _ hw
    rw [← taken, e] at count
    omega
  | scrubber =>
    have hw := s.arbiter.choose_waits.1 hc
    obtain ⟨b, hb⟩ := Option.isSome_iff_exists.1 hw
    have taken : (s.grantOne m).arbiter = s.arbiter.withdrawScrub := by
      simp only [State.grantOne, ht, hc, State.grantScrub, hb]
      split <;> rfl
    have count := Arbiter.waitCount_withdrawScrub _ hw
    rw [← taken, e] at count
    omega

/-- The grants of an event leave the part sound: no request waits while the controller is IDLE (R81). -/
theorem grantAll (h : s.beforeGrants) (m : Moment) : (s.grantAll m).controlSound := by
  refine (State.controlSound_iff _).2 ⟨((((h.grantOne m).grantOne m).grantOne m).grantOne m).grantOne m, fun ht => ?_⟩
  by_contra hc
  exact grantOne_ne_self _ m ht hc (State.iterate_grantOne m 5 s s.arbiter.waitCount_le)

/-! ## The end of a transfer -/

/-- The result of a port's transfer reaches the port (R88). -/
theorem deliver (h : s.beforeGrants) {x : Transfer} (hx : s.pool.transfer = some x) {p : PortId} (hp : x.requester = .port p)
    {P : Pool} (hP : P.transfer = none) (m : Moment) : (({ s with pool := P } : State).deliver m p x).beforeGrants := by
  obtain ⟨hpool, harb, hscrub, -⟩ := State.deliver_rest { s with pool := P } m p x
  have hunit : (s.port p).fits s.arbiter.waiting[p].isSome true := by
    have := h.front.units p
    rwa [State.unitFits, State.inFlight_some hx, hp, decide_eq_true rfl] at this
  obtain ⟨-, hwait, hstate⟩ := hunit.of_flies
  have hmoved : s.movesRequestOf { s with pool := P } p := ⟨rfl, rfl, fun q hq => ⟨rfl, by
    rw [State.inFlight_none (s := { s with pool := P }) hP, State.inFlight_some hx, hp]
    simpa using hq.symm⟩⟩
  have hfly : State.inFlight { s with pool := P } p = false := State.inFlight_none hP p
  refine ⟨?_, by rw [harb]; exact h.count, State.scrubberSound_congr h.scrubber hscrub (by rw [harb]) ?_⟩
  · simp only [State.deliver]
    split_ifs with ha hr
    · exact h.front.moved_reset hmoved hwait hfly m
    · refine h.front.moved hmoved (iff_of_false (by rw [Port.settleAbort_state]; decide) ?_) ?_
      · rw [show (s.port p).state = .aborting from ha]; decide
      · rw [hwait, hfly]
        exact hunit.settleAbort x
    · have hexec : (s.port p).state = .exec := by
        rcases hstate with ⟨he, -⟩ | hab
        · exact he
        · exact absurd hab ha
      refine h.front.moved hmoved (iff_of_false (Port.takeResult_state _ _) (by rw [hexec]; decide)) ?_
      rw [hwait, hfly]
      exact (hunit.takeResult hexec x).2
  · simp only [State.scrubs, hpool, hP, hx, hp]
    rfl

end State.beforeGrants

/-- The end of a transfer keeps the part sound (R87). -/
theorem State.controlSound.endOf {s : State} (h : s.controlSound) (kind : TransferKind) : (s.endOf kind).controlSound := by
  have hs := ((State.controlSound_iff s).1 h).1
  simp only [State.endOf]
  split
  · exact h
  · rename_i x hx
    split_ifs
    · refine State.beforeGrants.grantAll ?_ _
      split
      · rename_i p hp
        exact hs.deliver hx hp rfl _
      · rename_i hp
        have hscrubs : s.scrubs = true := by simp only [State.scrubs, hx, hp, decide_true]
        obtain ⟨-, -, -, -, hreq, hiff⟩ := hs.scrubber
        refine ⟨hs.front.same rfl rfl fun q => ⟨rfl, ?_⟩, hs.count,
          State.scrubberSound_endStep rfl (hreq (by rw [hiff.1 hscrubs]; decide)) rfl⟩
        rw [State.inFlight_none rfl, State.inFlight_some hx, hp]
        rfl
    · exact h

end Sys2Proof.Machine
end

/-! # Every command keeps the part sound -/

section
namespace Sys2Proof.Machine

/-! ## Accesses of a port's window -/

theorem Port.readData_state (q : Port) : q.readData.state = .waitLock ↔ q.state = .waitLock := by
  simp only [Port.readData]
  split_ifs with hs hi
  · exact Iff.rfl
  · refine iff_of_false ?_ (by rw [hs]; decide)
    split
    · exact Port.finishBlock_state _
    · simp
  · exact Iff.rfl

theorem Port.writeData_state (q : Port) (v : Byte) : (q.writeData v).state = .waitLock ↔ q.state = .waitLock := by
  simp only [Port.writeData]
  split
  · rename_i hs
    refine iff_of_false ?_ (by rw [hs]; decide)
    split
    · exact fun e => nomatch hs.symm.trans e
    · simp
  · exact Iff.rfl

theorem Port.writeLost_state (q : Port) (v : Byte) : (q.writeLost v).state = q.state := by
  simp only [Port.writeLost]
  split <;> rfl

theorem Port.writeArgument_state (q : Port) (o : Fin 16) (v : Byte) : (q.writeArgument o v).state = q.state := by
  simp only [Port.writeArgument]
  split
  · split <;> rfl
  · rfl

namespace State.controlSound

variable {s t : State}

theorem front (h : s.controlSound) : s.front [] [] := ((State.controlSound_iff s).1 h).1.front

/-- What changes only the table and the port units, and leaves them sound, leaves all but the pool sound. -/
theorem of_front (h : s.controlSound) (hf : t.front [] []) (ha : t.arbiter = s.arbiter) (hc : t.scrubber = s.scrubber)
    (ht : t.pool.transfer = s.pool.transfer) : t.controlSound := by
  obtain ⟨⟨-, hcount, hscrub⟩, hn⟩ := (State.controlSound_iff s).1 h
  refine (State.controlSound_iff t).2 ⟨⟨hf, by rw [ha]; exact hcount, State.scrubberSound_congr hscrub hc (by rw [ha]) ?_⟩, ?_⟩
  · simp only [State.scrubs, ht]
  · rw [ht, ha]; exact hn

theorem of_behind (h : s.controlSound) (hf : t.front [] []) (hb : s.keepsBehind t) : t.controlSound :=
  let ⟨hp, ha, hc, _⟩ := hb
  h.of_front hf ha hc (by rw [hp])

/-- One port unit changes and stays sound. -/
theorem onPort (h : s.controlSound) (p : PortId) {f : Port → Port}
    (hw : (f (s.port p)).state = .waitLock ↔ (s.port p).state = .waitLock)
    (hf : (f (s.port p)).fits s.arbiter.waiting[p].isSome (s.inFlight p)) : (s.onPort p f).controlSound :=
  h.of_behind (h.front.onPort p hw hf) (s.keepsBehind_onPort p f)

theorem unit (h : s.controlSound) (p : PortId) : (s.port p).fits s.arbiter.waiting[p].isSome (s.inFlight p) := h.front.units p

theorem complete (h : s.controlSound) {p : PortId} (hp : s.mayEnd p) (k : ErrorKind) : (s.complete p k).controlSound :=
  h.of_behind (h.front.complete hp k) (s.keepsBehind_complete p k)

/-- A port in READY or in a data phase may end its command. -/
theorem mayEnd (h : s.controlSound) {p : PortId}
    (hs : (s.port p).state = .ready ∨ (s.port p).state = .dataIn ∨ (s.port p).state = .dataOut) : s.mayEnd p := by
  have hne : (s.port p).state ≠ .exec ∧ (s.port p).state ≠ .aborting ∧ (s.port p).state ≠ .waitLock := by
    rcases hs with hs | hs | hs <;> rw [hs] <;> decide
  exact ⟨hne.2.2, (h.unit p).idle hne.1 hne.2.1⟩

/-! ## A write of COMMAND -/

/-- A command begins at a port in READY whose old report is cleared (R94, R96). -/
theorem beginCommand (h : s.controlSound) {p : PortId} {c : Command} (hs : (s.port p).state = .ready)
    (hu : (s.port p).unreported) (hargs : (s.port p).argumentsInRange c = true) : (s.beginCommand p c).controlSound := by
  obtain ⟨-, ⟨-, hout, hheld⟩, hwait, hfly⟩ := (Port.fits_ready hs).1 (h.unit p)
  have hsize := (h.unit p).sized
  have engaged : ∀ r b d, Port.engaged { s.port p with running := some r, block := b, dest := d } := fun r b d =>
    ⟨hsize, hu, rfl, hout, hheld⟩
  have begins : ∀ {f : Port → Port}, (f (s.port p)).state ≠ .waitLock → (f (s.port p)).fits false false →
      (s.onPort p f).controlSound := fun {f} hst hf =>
    h.onPort p (iff_of_false hst (by rw [hs]; decide)) (by rw [hwait, hfly]; exact hf)
  cases hr : (s.port p).handedRequest c with
  | some r =>
    rw [s.beginCommand_handed p c r hr]
    refine begins (by simp) ((Port.fits_exec rfl).2 ⟨⟨hsize.1, by simp, hsize.2⟩, hu, rfl, fun l f n e ho => ?_, fun _ _ => ?_,
      .inl ⟨rfl, rfl, rfl⟩⟩)
    · -- only DEFINE LOCK hands this request, and its run was checked
      cases ho
      cases c <;> simp only [Port.handedRequest, reduceCtorEq, Option.some.injEq] at hr
      simp only [HandedRequest.defineLock.injEq] at hr
      obtain ⟨-, rfl, rfl, -⟩ := hr
      simpa [Port.argumentsInRange, Port.runInRange] using (Bool.and_eq_true_iff.1 hargs).2
    · rw [hheld]; decide
  | none =>
    cases c <;> simp only [Port.handedRequest, reduceCtorEq] at hr
    case readBlocks | zeroBlocks | verifyBlocks => exact begins (by simp) (engaged _ _ _).requestBlock
    case writeBlocks => exact begins (by simp) ((engaged _ _ _).openPhase (.inr rfl))
    case identify => exact begins (by simp) ((engaged _ _ _).offerBytes _)
    case copyBlocks =>
      refine begins ?_ ?_
      · split_ifs <;> simp
      · split_ifs <;> exact (engaged _ _ _).requestBlock
    case readFaultList =>
      simp only [State.beginCommand]
      generalize hP : (if (s.port p).param.getLsbD 0 = true then
        { s.pool with overflow := false, corrected := 0 } else s.pool) = P
      have ht : P.transfer = s.pool.transfer := by
        rw [← hP]
        split <;> rfl
      have hfront := h.front.same (t := { s with pool := P }) rfl rfl fun q => ⟨rfl, by simp only [State.inFlight, ht]⟩
      exact State.controlSound.onPort (h.of_front hfront rfl rfl ht) p (iff_of_false (by simp) (by
        show (s.port p).state ≠ _
        rw [hs]; decide))
        (by rw [hwait, show State.inFlight { s with pool := P } p = s.inFlight p by simp only [State.inFlight, ht], hfly]
            exact (engaged _ _ _).offerBytes _)

theorem acceptCommand (h : s.controlSound) {p : PortId} (hs : (s.port p).state = .ready) (c : Option Command) :
    (s.acceptCommand p c).controlSound := by
  have hunit := h.unit p
  obtain ⟨hb, hcmd, hwait, hfly⟩ := (Port.fits_ready hs).1 hunit
  have haccept : (s.onPort p Port.accept).controlSound :=
    h.onPort p Iff.rfl ((Port.fits_ready (q := (s.port p).accept) hs).2 ⟨hb, hcmd, hwait, hfly⟩)
  have hport : (s.onPort p Port.accept).port p = (s.port p).accept := State.port_onPort_self s p Port.accept
  have hready : ((s.onPort p Port.accept).port p).state = .ready := by rw [hport]; exact hs
  rcases s.acceptCommand_cases p c with ⟨-, e⟩ | ⟨d, -, -, e⟩ | ⟨d, -, -, -, e⟩ | ⟨d, -, -, ha, e⟩ <;> rw [e]
  · exact haccept.complete (haccept.mayEnd (.inl hready)) _
  · exact haccept.complete (haccept.mayEnd (.inl hready)) _
  · exact haccept.complete (haccept.mayEnd (.inl hready)) _
  · exact haccept.beginCommand hready (by rw [hport]; exact ⟨rfl, rfl⟩) ((s.accept_checks p d).2.1.trans ha)

theorem writeCommand (h : s.controlSound) (p : PortId) (c : Option Command) : (s.writeCommand p c).controlSound := by
  simp only [State.writeCommand]
  split_ifs with hs
  · exact h.acceptCommand hs c
  · exact h.onPort p Iff.rfl (h.unit p).reject

/-! ## A request taken by its block -/

/-- SET SCRUB at the scrubber and the arbiter (R151). -/
theorem takeSetScrub (h : s.controlSound) (n : Byte) :
    (s.takeSetScrub n).controlSound ∧ (s.takeSetScrub n).ports = s.ports ∧
      (s.takeSetScrub n).arbiter.waiting = s.arbiter.waiting ∧ (s.takeSetScrub n).pool = s.pool := by
  obtain ⟨⟨hfront, hcount, hscrub⟩, hnone⟩ := (State.controlSound_iff s).1 h
  have kept : ∀ c : Scrubber, State.scrubberSound { s with scrubber := c } → State.controlSound { s with scrubber := c } :=
    fun c hc => (State.controlSound_iff _).2 ⟨⟨hfront.same rfl rfl fun q => ⟨rfl, rfl⟩, hcount, hc⟩, hnone⟩
  have idle : s.arbiter.scrubReq = none → s.scrubs = false →
      State.controlSound { s with
        scrubber := (if n = 0 then ({ s.scrubber with interval := n } : Scrubber).turnOff
          else ({ s.scrubber with interval := n } : Scrubber).startTimer .betweenTicks) } := by
    intro hr hs
    split_ifs with hn
    · exact kept _ ((State.scrubberSound_off rfl).2 ⟨hn, rfl, hr, hs⟩)
    · exact kept _ ((State.scrubberSound_timing rfl).2 ⟨hn, rfl, hr, hs⟩)
  simp only [State.takeSetScrub]
  split
  case h_1 hph =>
    obtain ⟨-, -, hr, hs⟩ := (State.scrubberSound_off hph).1 hscrub
    exact ⟨idle hr hs, rfl, rfl, rfl⟩
  case h_2 hph =>
    obtain ⟨-, -, hr, hs⟩ := (State.scrubberSound_timing hph).1 hscrub
    exact ⟨idle hr hs, rfl, rfl, rfl⟩
  case h_3 hph =>
    obtain ⟨-, htimer, hr, hs⟩ := (State.scrubberSound_requested hph).1 hscrub
    split_ifs with hn
    · refine ⟨(State.controlSound_iff _).2 ⟨⟨hfront.same rfl rfl fun q => ⟨rfl, rfl⟩, Arbiter.countSound_withdrawScrub _,
        (State.scrubberSound_off rfl).2 ⟨hn, rfl, rfl, hs⟩⟩, fun ht => ?_⟩, rfl, rfl, rfl⟩
      rw [Arbiter.choose_eq_none]
      exact ⟨((Arbiter.choose_eq_none _).1 (hnone ht)).1, rfl⟩
    · exact ⟨kept _ ((State.scrubberSound_requested (s := { s with scrubber := { s.scrubber with interval := n } }) hph).2
        ⟨hn, htimer, hr, hs⟩), rfl, rfl, rfl⟩
  case h_4 hph =>
    exact ⟨kept _ ((State.scrubberSound_scrubbing (s := { s with scrubber := { s.scrubber with interval := n } }) hph).2
      ((State.scrubberSound_scrubbing hph).1 hscrub)), rfl, rfl, rfl⟩

/-- A request taken whole by its block (R21, R96). -/
theorem takeRequest (h : s.controlSound) {p : PortId} {r : HandedRequest} (ho : (s.port p).outgoing = some (.handed r)) :
    (s.takeRequest p r).controlSound := by
  have hf := h.front
  have hp := hf.mayEnd_of_outgoing ho
  cases r with
  | acquireShared l limit =>
    exact h.of_behind (hf.takeAcquire ho l (by decide) limit) (s.keepsBehind_takeAcquire p l .shared limit)
  | acquireExclusive l limit =>
    exact h.of_behind (hf.takeAcquire ho l (by decide) limit) (s.keepsBehind_takeAcquire p l .exclusive limit)
  | upgrade l limit => exact h.of_behind (hf.takeUpgrade ho l limit) (s.keepsBehind_takeUpgrade p l limit)
  | downgrade l => exact h.of_behind (hf.takeDowngrade ho l) (s.keepsBehind_takeDowngrade p l)
  | release l => exact h.of_behind (hf.takeRelease ho l) (s.keepsBehind_takeRelease p l)
  | renew l => exact h.of_behind (hf.takeRenew ho l) (s.keepsBehind_takeRenew p l)
  | queryLock l => exact h.of_behind (hf.takeQuery ho l) (s.keepsBehind_takeQuery p l)
  | defineLock l first count lease => exact h.of_behind (hf.takeDefine ho) (s.keepsBehind_takeDefine p l first count lease)
  | undefineLock l => exact h.of_behind (hf.takeUndefine ho l) (s.keepsBehind_takeUndefine p l)
  | breakLock l => exact h.of_behind (hf.takeBreak ho l) (s.keepsBehind_takeBreak p l)
  | postNote target code tag => exact h.of_behind (hf.takePost ho target code tag) (s.keepsBehind_takePost p target code tag)
  | setRights target give =>
    have hset := h.of_front (t := { s with rights := s.rights.give target give })
      (hf.same rfl rfl fun q => ⟨rfl, rfl⟩) rfl rfl rfl
    exact hset.complete hp .none
  | setArbiter fixed =>
    obtain ⟨⟨-, hcount, hscrub⟩, hnone⟩ := (State.controlSound_iff s).1 h
    have hset : State.controlSound { s with arbiter := { s.arbiter with mode := if fixed then .fixed else .rotate } } := by
      refine (State.controlSound_iff _).2 ⟨⟨hf.same rfl rfl fun q => ⟨rfl, rfl⟩, hcount, hscrub⟩, fun ht => ?_⟩
      rw [Arbiter.choose_eq_none]
      exact (Arbiter.choose_eq_none s.arbiter).1 (hnone ht)
    exact hset.complete hp .none
  | setScrub n =>
    obtain ⟨hset, hports, hwaiting, hpool⟩ := h.takeSetScrub n
    refine hset.complete ⟨?_, ?_, ?_⟩ .none
    · simp only [State.port, hports]; exact hp.1
    · rw [hwaiting]; exact hp.2.1
    · simp only [State.inFlight, hpool]; exact hp.2.2

theorem arriveHanded (h : s.controlSound) (p : PortId) : (s.arriveHanded p).controlSound := by
  simp only [State.arriveHanded]
  split
  · exact h.takeRequest ‹_›
  · exact h

theorem writeHanded (h : s.controlSound) (p : PortId) (c : Command) (w : Handing) : (s.writeHanded p c w).controlSound := by
  simp only [State.writeHanded]
  split_ifs with hs
  · cases w with
    | takenAtOnce => exact (h.acceptCommand hs (some c)).arriveHanded p
    | outstanding => exact h.acceptCommand hs (some c)
  · exact h.onPort p Iff.rfl (h.unit p).reject

/-! ## A write of CONTROL -/

/-- An action is held at a port in EXEC whose transfer is in flight: it enters ABORTING (R108, R111). -/
theorem holdInFlight (h : s.controlSound) {p : PortId} (hs : (s.port p).state = .exec) (hf : s.inFlight p = true)
    (a : HeldAction) : (s.onPort p fun q => { q with state := .aborting, held := some a }).controlSound := by
  have hunit := h.unit p
  rw [hf] at hunit
  obtain ⟨hout, hwait, -⟩ := hunit.of_flies
  obtain ⟨hb, hu, hr, -⟩ := (Port.fits_exec hs).1 hunit
  refine h.onPort p (iff_of_false (by simp) (by rw [hs]; decide)) ?_
  rw [hf, hwait]
  exact (Port.fits_aborting rfl).2 ⟨⟨hb.1, by simp, hb.2.2⟩, hu, hr, hout, rfl, rfl, rfl⟩

/-- An action is held at a port in EXEC whose request has not begun: an abort, or a port reset of a pool request (R108,
R111). -/
theorem holdInExec (h : s.controlSound) {p : PortId} (hs : (s.port p).state = .exec) (hf : s.inFlight p = false)
    {a : HeldAction} (ha : ∀ r, (s.port p).outgoing = some (.handed r) → a ≠ .portReset) :
    (s.onPort p fun q => { q with held := some a }).controlSound := by
  refine h.onPort p Iff.rfl ?_
  have hunit := h.unit p
  rw [hf] at hunit ⊢
  obtain ⟨hb, hu, hr, hdef, -, hplace⟩ := (Port.fits_exec hs).1 hunit
  refine (Port.fits_exec (q := { s.port p with held := some a }) hs).2 ⟨hb, hu, hr, hdef,
    fun r ho => by simpa using ha r ho, ?_⟩
  rcases hplace with hp | hp | ⟨-, -, hp, -⟩
  · exact .inl hp
  · exact .inr (.inl hp)
  · cases hp

theorem portReset (h : s.controlSound) {p : PortId} (hw : s.arbiter.waiting[p].isSome = false) (hf : s.inFlight p = false)
    (m : Moment) : (s.portResetEffect m p).controlSound :=
  h.of_behind (h.front.portResetEffect hw hf m) (s.keepsBehind_portResetEffect p m)

theorem takeAbort (h : s.controlSound) (p : PortId) : (s.takeAbort p).controlSound := by
  have discarded : (s.port p).state = .dataIn ∨ (s.port p).state = .dataOut →
      (s.onPort p fun q => q.discard.complete .aborted).controlSound := by
    intro hs
    obtain ⟨hlock, hwait, hfly⟩ := h.mayEnd (.inr hs)
    refine h.onPort p (iff_of_false (by simp) hlock) ?_
    rw [hwait, hfly]
    exact Port.fits_complete (q := (s.port p).discard) ⟨Nat.zero_le _, (h.unit p).sized.2⟩ _
  simp only [State.takeAbort]
  split
  case h_1 | h_2 => exact h
  case h_3 hs => exact discarded (.inl hs)
  case h_4 hs => exact discarded (.inr hs)
  case h_5 hs =>
    split_ifs with hf
    · exact h.holdInFlight hs hf .abort
    · exact h
    · exact h.holdInExec hs (by simpa using hf) fun _ _ => by decide
  case h_6 hs =>
    obtain ⟨hb, hu, hr, ho, -, hrest⟩ := (Port.fits_waitLock hs).1 (h.unit p)
    exact h.onPort p Iff.rfl ((Port.fits_waitLock (q := { s.port p with held := some .abort }) hs).2
      ⟨hb, hu, hr, ho, by simp, hrest⟩)

theorem takePortReset (h : s.controlSound) (p : PortId) : (s.takePortReset p).controlSound := by
  have idle : (s.port p).state ≠ .exec → (s.port p).state ≠ .aborting → (s.portResetEffect .betweenTicks p).controlSound :=
    fun he ha => h.portReset ((h.unit p).idle he ha).1 ((h.unit p).idle he ha).2 _
  simp only [State.takePortReset]
  split
  case h_5 hs =>
    split_ifs with hf hq
    · exact h.holdInFlight hs hf .portReset
    · refine h.holdInExec hs (by simpa using hf) fun r ho => ?_
      obtain ⟨-, hw, -⟩ := (h.unit p).exec_of_outgoing ho
      simp only [State.poolRequested, hw, ho] at hq
      cases hq
    · simp only [State.poolRequested, Bool.not_eq_true, Bool.or_eq_false_iff] at hq
      exact h.portReset hq.1 (by simpa using hf) _
  case h_6 hs =>
    obtain ⟨hb, hu, hr, ho, -, hrest⟩ := (Port.fits_aborting hs).1 (h.unit p)
    exact h.onPort p Iff.rfl ((Port.fits_aborting (q := { s.port p with held := some .portReset }) hs).2
      ⟨hb, hu, hr, ho, rfl, hrest⟩)
  all_goals exact idle (by simp [*]) (by simp [*])

theorem writeControl (h : s.controlSound) (p : PortId) (v : Byte) : (s.writeControl p v).controlSound := by
  simp only [State.writeControl]
  split_ifs
  · exact h.takePortReset p
  · exact h.takeAbort p
  · exact h

/-! ## The other accesses of a window -/

theorem writeData (h : s.controlSound) (p : PortId) (v : Byte) : (s.onPort p fun q => q.writeData v).controlSound :=
  h.onPort p (Port.writeData_state _ v) ((h.unit p).writeData v)

theorem popNote (h : s.controlSound) (p : PortId) : (s.onPort p Port.popNote).controlSound :=
  h.onPort p Iff.rfl (h.unit p).popNote

theorem writeLost (h : s.controlSound) (p : PortId) (v : Byte) : (s.onPort p fun q => q.writeLost v).controlSound :=
  h.onPort p (by rw [Port.writeLost_state]) ((h.unit p).writeLost v)

theorem writeIrqen (h : s.controlSound) (p : PortId) (v : Byte) :
    (s.onPort p fun q => { q with irqen := irqMask v }).controlSound :=
  h.onPort p Iff.rfl ((h.unit p).writeIrqen v)

theorem writeWindow (h : s.controlSound) (p : PortId) (o : Fin 16) (v : Byte) : (s.writeWindow p o v).controlSound := by
  simp only [State.writeWindow]
  split
  case h_1 => exact h.writeData p v
  case h_2 => exact h.writeCommand p _
  case h_3 => exact h.writeControl p v
  case h_4 => exact h.writeIrqen p v
  case h_5 => exact h.popNote p
  case h_6 => exact h.writeLost p v
  case h_10 => exact h.onPort p (by rw [Port.writeArgument_state]) ((h.unit p).writeArgument o v)
  all_goals exact h

/-! ## Events at the arbiter and the scrubber -/

/-- A port's request arrives at the arbiter (R81). -/
theorem arrivePool (h : s.controlSound) (p : PortId) : (s.arrivePool p).controlSound := by
  obtain ⟨⟨hfront, hcount, hscrub⟩, -⟩ := (State.controlSound_iff s).1 h
  simp only [State.arrivePool]
  split
  · rename_i r ho
    obtain ⟨hexec, hw, hf⟩ := (h.unit p).exec_of_outgoing ho
    obtain ⟨hb, hu, hr, -⟩ := (Port.fits_exec hexec).1 (h.unit p)
    have hmoved : s.movesRequestOf
        { s with arbiter := { s.arbiter with waiting := s.arbiter.waiting.set p (some r) } } p :=
      ⟨rfl, rfl, fun q hq => ⟨by simp only [getElem_set_port, if_neg hq], rfl⟩⟩
    have harrived := hfront.moved hmoved (f := fun q => { q with outgoing := none }) Iff.rfl (by
      rw [show State.inFlight { s with arbiter := { s.arbiter with waiting := s.arbiter.waiting.set p (some r) } } p = false
        from hf]
      simp only [getElem_set_port, if_true, Option.isSome_some]
      exact (Port.fits_exec (q := { s.port p with outgoing := none }) hexec).2
        ⟨hb, hu, hr, Port.defineChecked_none rfl, (fun _ ho => nomatch ho), .inr (.inl ⟨rfl, rfl, rfl⟩)⟩)
    exact State.beforeGrants.grantAll ⟨harrived, hcount, hscrub⟩ _
  · exact h

/-- A withdrawal of a port's request is taken (R85). -/
theorem withdrawPool (h : s.controlSound) (p : PortId) : (s.withdrawPool p).controlSound := by
  obtain ⟨⟨hfront, hcount, hscrub⟩, hnone⟩ := (State.controlSound_iff s).1 h
  simp only [State.withdrawPool]
  split_ifs with hq
  · have hexec : (s.port p).state = .exec ∧ s.inFlight p = false := by
      simp only [State.poolRequested, Bool.or_eq_true] at hq
      rcases hq with hw | ho
      · have := h.unit p
        rw [hw] at this
        exact ⟨this.exec_of_waits.1, this.exec_of_waits.2.2⟩
      · split at ho
        · rename_i r hout
          obtain ⟨hexec, -, hfly⟩ := (h.unit p).exec_of_outgoing hout
          exact ⟨hexec, hfly⟩
        · cases ho
    have hmoved : s.movesRequestOf { s with arbiter := { s.arbiter with waiting := s.arbiter.waiting.set p none } } p :=
      ⟨rfl, rfl, fun q hq => ⟨by simp only [getElem_set_port, if_neg hq], rfl⟩⟩
    have hgone : (s.arbiter.waiting.set p none)[p].isSome = false := by simp only [getElem_set_port, if_true, Option.isSome_none]
    -- no request that waited before can wait now
    have hstill : s.pool.transfer = none →
        Arbiter.choose { s.arbiter with waiting := s.arbiter.waiting.set p none } = none := fun ht => by
      obtain ⟨hall, hs⟩ := (Arbiter.choose_eq_none _).1 (hnone ht)
      refine (Arbiter.choose_eq_none _).2 ⟨fun q => ?_, hs⟩
      simp only [getElem_set_port]
      split
      · rfl
      · exact hall q
    split
    · exact h
    · refine (State.controlSound_iff _).2 ⟨⟨hfront.moved hmoved (iff_of_false (by simp) (by rw [hexec.1]; decide)) ?_, hcount,
        hscrub⟩, hstill⟩
      rw [hgone, show State.inFlight { s with arbiter := { s.arbiter with waiting := s.arbiter.waiting.set p none } } p = false
        from hexec.2]
      exact Port.fits_complete (h.unit p).sized _
    · obtain ⟨hpool, harb, hscr, -⟩ := State.keepsBehind_portResetEffect
        { s with arbiter := { s.arbiter with waiting := s.arbiter.waiting.set p none } } p .betweenTicks
      refine (State.controlSound_iff _).2 ⟨⟨hfront.moved_reset hmoved hgone hexec.2 _, by rw [harb]; exact hcount,
        State.scrubberSound_congr hscrub hscr (by rw [harb]) (by simp only [State.scrubs, hpool])⟩, ?_⟩
      rw [hpool, harb]
      exact hstill
  · exact h

/-- No sound state has a scrub request to withdraw by itself (log 17). -/
theorem withdrawScrubRequest (h : s.controlSound) : s.withdrawScrubRequest.controlSound := by
  simp only [State.withdrawScrubRequest]
  split_ifs with hc
  · obtain ⟨hphase, hint, -⟩ := hc
    obtain ⟨⟨-, -, hscrub⟩, -⟩ := (State.controlSound_iff s).1 h
    exact absurd hint ((State.scrubberSound_requested hphase).1 hscrub).1
  · exact h

/-- The scrubber makes its request, and the grants follow (R148). -/
theorem requestScrub (h : s.controlSound) : s.requestScrub.controlSound := by
  obtain ⟨⟨hfront, hcount, hscrub⟩, -⟩ := (State.controlSound_iff s).1 h
  simp only [State.requestScrub]
  split_ifs with hc
  · obtain ⟨hint, -, -, hs⟩ := (State.scrubberSound_timing hc.1).1 hscrub
    have hrequested : State.beforeGrants { s with
        scrubber := { s.scrubber with phase := .requested, timer := none }
        arbiter := { s.arbiter with scrubReq := some s.scrubber.position } } :=
      ⟨hfront.same rfl rfl fun q => ⟨rfl, rfl⟩, ⟨hcount.1, fun hn => nomatch hn⟩,
        (State.scrubberSound_requested rfl).2 ⟨hint, rfl, rfl, hs⟩⟩
    exact hrequested.grantAll _
  · exact h

theorem grantAll (h : s.controlSound) (m : Moment) : (s.grantAll m).controlSound :=
  State.beforeGrants.grantAll ((State.controlSound_iff s).1 h).1 m

/-! ## Time and resets -/

/-- A tick moves the time alone, and no deadline is part of what is sound (R63). -/
theorem takeTick (h : s.controlSound) : s.takeTick.controlSound := by
  obtain ⟨⟨hfront, hcount, hscrub⟩, hnone⟩ := (State.controlSound_iff s).1 h
  refine (State.controlSound_iff _).2 ⟨⟨hfront.same rfl rfl fun q => ⟨rfl, rfl⟩, hcount, ?_⟩, hnone⟩
  simp only [State.scrubberSound, State.takeTick, Option.isSome_map]
  exact hscrub

/-- The part after a reset is sound with any pool that has no transfer in flight (R33, R80, R113, R147). -/
theorem reset {P : Pool} (hP : P.transfer = none) (q : List Instr) :
    State.controlSound { State.reset with pool := P, pending := q } := by
  have hport : ∀ p, State.reset.port p = Port.reset := fun p => by simp [State.port, State.reset]
  have hlock : ∀ l, State.reset.lockAt l = Lock.reset := fun l => by simp [State.lockAt, State.reset]
  have hwait : ∀ p : PortId, Arbiter.reset.waiting[p] = none := fun p => by simp [Arbiter.reset]
  have hnot : ∀ l p, (State.reset.lockAt l).waits p = false := fun l p => by rw [hlock]; rfl
  have hnone : Arbiter.reset.choose = none := (Arbiter.choose_eq_none _).2 ⟨hwait, rfl⟩
  have hfront : State.reset.front [] [] := by
    refine ⟨fun l => hlock l ▸ Lock.recordSound_reset, fun l _ => Lock.settled_nil (by rw [hlock]; rfl), fun l m _ hd => ?_,
      fun p _ => ?_, (fun p hp => nomatch hp), fun p l m hl => ?_, State.reset.noCycle_iff.2 fun p hp => ?_, fun p => ?_⟩
    · rw [hlock] at hd; cases hd
    · rw [hport]
      exact iff_of_false (by decide) fun ⟨l, hl⟩ => by rw [hnot] at hl; cases hl
    · rw [hnot] at hl; cases hl
    · obtain ⟨c, hc, -⟩ := Relation.TransGen.head'_iff.1 hp
      obtain ⟨-, l, hl, -⟩ := (State.reset.waitsFor_iff p c).1 hc
      rw [hnot] at hl
      cases hl
    · rw [State.unitFits, hport, show State.reset.arbiter.waiting[p] = none from hwait p, State.inFlight_none rfl]
      exact Port.fits_reset
  refine (State.controlSound_iff _).2 ⟨⟨hfront.same rfl rfl fun q => ⟨rfl, ?_⟩, ⟨Nat.zero_le _, fun _ => rfl⟩,
    (State.scrubberSound_off rfl).2 ⟨rfl, rfl, rfl, ?_⟩⟩, fun _ => hnone⟩
  · rw [State.inFlight_none hP, State.inFlight_none rfl]
  · simp only [State.scrubs, hP]

/-! ## Every command -/

theorem exec {i : Instr} (h : s.controlSound) (e : exec i s = .next t) : t.controlSound := by
  have hf := h.front
  cases i <;> cases e
  case readBlocks p | writeBlocks p | copyBlocks p | zeroBlocks p | verifyBlocks p | readFaultList p | identify p =>
    exact h.writeCommand p _
  case badCommand p code => exact h.writeCommand p _
  case acquireShared p w | acquireExclusive p w | upgrade p w | downgrade p w | release p w | renew p w | queryLock p w
      | defineLock p w | undefineLock p w | breakLock p w | setRights p w | setArbiter p w | setScrub p w | postNote p w =>
    exact h.writeHanded p _ w
  case abort p v | portReset p v => exact h.writeControl p v
  case dataRead p => exact h.onPort p (Port.readData_state _) (h.unit p).readData
  case dataWrite p v => exact h.writeData p v
  case statusRead p => exact h.onPort p Iff.rfl ((h.unit p).readStatus _)
  case notePop p v => exact h.popNote p
  case lostWrite p v => exact h.writeLost p v
  case irqenWrite p v => exact h.writeIrqen p v
  case registerWrite p o v => exact h.writeWindow p o v
  case powerOn => exact reset (P := Pool.powerOn) rfl s.pending
  case deviceReset => exact reset s.pool.deviceReset_transfer s.pending
  case tick => exact h.takeTick
  case leaseExpiry l p => exact h.of_behind (hf.expireLease l p) (s.keepsBehind_expireLease p l)
  case waitTimeout l p => exact h.of_behind (hf.timeoutWait l p) (s.keepsBehind_timeoutWait p l)
  case scrubRequest => exact h.requestScrub
  case poolGrant => exact h.grantAll _
  case loadEnd | storeEnd | zeroEnd | copyEnd | verifyEnd | scrubEnd => exact h.endOf _
  case lockEntryWithdrawal p => exact h.of_behind (hf.withdrawEntry p) (s.keepsBehind_withdrawEntry p)
  case poolRequestWithdrawal r =>
    cases r with
    | port p => exact h.withdrawPool p
    | scrubber => exact h.withdrawScrubRequest
  case tablePortReset p =>
    split_ifs with hq
    · exact h
    · simp only [State.poolRequested, Bool.or_eq_true, not_or, Bool.not_eq_true] at hq
      exact h.portReset hq.2.1 hq.1 _
  case storedBitDisturbance b g k =>
    have ht : (s.pool.disturb b g k).transfer = s.pool.transfer := by rw [Pool.disturb_fields]
    exact h.of_front (hf.same rfl rfl fun q => ⟨rfl, by simp only [State.inFlight, ht]⟩) rfl rfl ht
  case handedRequestArrival p => exact h.arriveHanded p
  case handedRequestWithdrawal p => exact h.of_behind (hf.withdrawHanded p) (s.keepsBehind_withdrawHanded p)
  case poolRequestArrival p => exact h.arrivePool p

end State.controlSound

/-- A part is sound exactly if its pool is and all else is. -/
theorem State.sound_iff (s : State) : s.sound ↔ s.pool.intact ∧ s.controlSound :=
  ⟨fun ⟨hs, hg, hc⟩ => ⟨⟨hs, hg⟩, hc⟩, fun ⟨⟨hs, hg⟩, hc⟩ => ⟨hs, hg, hc⟩⟩

/-- Every command keeps the whole part sound. -/
theorem exec_keeps_sound {i : Instr} {s t : State} (h : s.sound) (e : exec i s = .next t) : t.sound := by
  obtain ⟨hpool, hcontrol⟩ := s.sound_iff.1 h
  exact t.sound_iff.2 ⟨exec_keeps_intact e hpool, hcontrol.exec e⟩

/-! ## The statements -/

/-- Settles O58: the pool's part is kept as O57 says, and each command keeps the table, the port units, the arbiter and the
scrubber sound. -/
theorem stepKeepsThePartSound : Obligations.StepKeepsThePartSound := by
  intro s t hs h
  exact step_keeps (I := State.sound) (fun _ _ h => h) (fun _ _ _ hs h => exec_keeps_sound hs h) hs h

/-- Settles O3: the part after power-on is the reset part with the empty pool. -/
theorem powerOnStateIsSound : Obligations.PowerOnStateIsSound :=
  State.reset.sound_iff.2 ⟨Pool.intact_powerOn, State.controlSound.reset (P := Pool.powerOn) rfl []⟩

end Sys2Proof.Machine
end

/-! # Commands handed to another block -/

section
namespace Sys2Proof.Machine

/-! ## What a change leaves as it was -/

section sameBut

variable {s t : State} {p : PortId} {ps : List PortId} {ls : List LockId}

theorem State.sameBut_onPort (s : State) (p : PortId) (f : Port → Port) : s.sameBut (s.onPort p f) [p] [] :=
  ⟨fun _ hq => s.port_onPort_ne f (List.ne_of_not_mem_cons hq), fun _ _ => rfl, rfl, rfl, rfl, rfl, rfl, rfl⟩

theorem State.sameBut_setLock (s : State) (l : LockId) (k : Lock) : s.sameBut (s.setLock l k) [] [l] :=
  ⟨fun _ _ => rfl, fun _ hm => s.lockAt_setLock_ne k (List.ne_of_not_mem_cons hm), rfl, rfl, rfl, rfl, rfl, rfl⟩

/-- Changes one after the other: the ports and locks of both lists are those that may differ. -/
theorem State.sameBut.trans {u : State} {ps' : List PortId} {ls' : List LockId} (h : s.sameBut t ps ls)
    (h' : t.sameBut u ps' ls') {qs : List PortId} {ms : List LockId} (hp : ∀ q, q ∈ ps ∨ q ∈ ps' → q ∈ qs)
    (hl : ∀ m, m ∈ ls ∨ m ∈ ls' → m ∈ ms) : s.sameBut u qs ms := by
  obtain ⟨hport, hlock, hrest⟩ := h
  obtain ⟨hport', hlock', hrest'⟩ := h'
  refine ⟨fun q hq => ?_, fun m hm => ?_, State.keepsBehind.trans hrest hrest'⟩
  · rw [hport' q fun hn => hq (hp q (.inr hn)), hport q fun hn => hq (hp q (.inl hn))]
  · rw [hlock' m fun hn => hm (hl m (.inr hn)), hlock m fun hn => hm (hl m (.inl hn))]

/-- A change of port `p` before a change that may touch `p` is part of it. -/
theorem State.sameBut.of_onPort {f : Port → Port} (h : (s.onPort p f).sameBut t ps ls) (hp : p ∈ ps) : s.sameBut t ps ls :=
  (s.sameBut_onPort p f).trans h (fun _ hq => hq.elim (fun e => List.mem_singleton.1 e ▸ hp) id)
    fun _ hm => hm.elim (fun e => nomatch e) id

end sameBut

/-! ## Acceptance of a command that hands a request -/

/-- A port unit whose COMMAND write was accepted, with the request on its way (R94, R96). -/
def Port.hand (q : Port) (c : Command) (r : HandedRequest) : Port :=
  { q with
    state := .exec, done := false, kind := .none, corr := false, rej := false, running := some ⟨c, .ascending⟩,
    outgoing := some (.handed r) }

/-- The part with that command of port `p` accepted. -/
def State.hand (s : State) (p : PortId) (c : Command) (r : HandedRequest) : State := s.onPort p fun q => q.hand c r

section hand

variable {s : State} {p : PortId} {c : Command} {r : HandedRequest} {i : Instr}

@[simp] theorem State.port_hand (s : State) (p : PortId) (c : Command) (r : HandedRequest) :
    (s.hand p c r).port p = (s.port p).hand c r := s.port_onPort_self p _

theorem State.port_hand_ne {q : PortId} (h : q ≠ p) : (s.hand p c r).port q = s.port q := s.port_onPort_ne _ h

@[simp] theorem State.lockAt_hand (s : State) (p : PortId) (c : Command) (r : HandedRequest) (l : LockId) :
    (s.hand p c r).lockAt l = s.lockAt l := rfl

theorem State.hand_complete (s : State) (p : PortId) (c : Command) (r : HandedRequest) (e : ErrorKind) :
    (s.hand p c r).complete p e = s.onPort p fun q => q.answered e := s.onPort_onPort p _ _

/-- A command that passes its checks and hands a request is accepted with the request on its way. -/
theorem State.acceptCommand_hand (hr : s.hasRight p c = true) (ha : (s.port p).argumentsInRange c = true)
    (hq : (s.port p).handedRequest c = some r) : s.acceptCommand p (some c) = s.hand p c r := by
  obtain ⟨hright, hargs, hhanded⟩ := s.accept_checks p c
  have begun : (s.onPort p Port.accept).beginCommand p c = s.hand p c r := by
    rw [State.beginCommand_handed _ p c r (hhanded.trans hq), State.onPort_onPort]
    rfl
  simp only [State.acceptCommand, hright, hargs, hr, ha, begun]
  rfl

theorem State.writeHanded_outstanding (hs : (s.port p).state = .ready) (hr : s.hasRight p c = true)
    (ha : (s.port p).argumentsInRange c = true) (hq : (s.port p).handedRequest c = some r) :
    s.writeHanded p c .outstanding = s.hand p c r := by
  simp only [State.writeHanded, if_pos hs, State.acceptCommand_hand hr ha hq]

/-- A request that arrives is taken by its block (R96). -/
theorem State.arriveHanded_taken (h : (s.port p).outgoing = some (.handed r)) : s.arriveHanded p = s.takeRequest p r := by
  simp only [State.arriveHanded, h]

/-- A command taken at once: its request is taken in the part with the command accepted (R96; log 4). -/
theorem exec_takenAtOnce (hi : exec i s = .next (s.writeHanded p c .takenAtOnce)) (hs : (s.port p).state = .ready)
    (hr : s.hasRight p c = true) (ha : (s.port p).argumentsInRange c = true) (hq : (s.port p).handedRequest c = some r) :
    exec i s = .next ((s.hand p c r).takeRequest p r) := by
  have taken : (s.hand p c r).arriveHanded p = (s.hand p c r).takeRequest p r :=
    State.arriveHanded_taken (by rw [State.port_hand]; rfl)
  rw [hi, State.writeHanded, if_pos hs, ← taken, ← State.acceptCommand_hand hr ha hq]

/-- A command that its block answers with a kind and no further change ends so (R101). -/
theorem exec_answered {u : State} {e : ErrorKind} (hi : exec i s = .next u) (hu : u = (s.hand p c r).complete p e) :
    ∃ t, exec i s = .next t ∧ t.port p = (s.port p).answered e ∧ s.sameBut t [p] [] := by
  rw [State.hand_complete] at hu
  exact ⟨u, hi, by rw [hu, State.port_onPort_self], hu ▸ s.sameBut_onPort p _⟩

/-! ## The commands of the lock table -/

variable {l : LockId}

theorem State.asks.lockArgument (h : s.asks p l) : (s.port p).lockArgument = l := by
  simp [Port.lockArgument, h.2]

theorem State.asks.lock_le (h : s.asks p l) : decide ((s.port p).lock.toNat ≤ 31) = true := by
  have := l.isLt
  exact decide_eq_true (by omega)

theorem State.asks.acquireShared (h : s.asks p l) : exec (.acquireShared p .takenAtOnce) s =
    .next ((s.hand p .acquireShared (.acquireShared l (s.port p).param)).takeAcquire p l .shared (s.port p).param) :=
  exec_takenAtOnce (c := .acquireShared) (r := .acquireShared l _) rfl h.1 rfl h.lock_le (by rw [← h.lockArgument]; rfl)

theorem State.asks.acquireExclusive (h : s.asks p l) : exec (.acquireExclusive p .takenAtOnce) s =
    .next ((s.hand p .acquireExclusive (.acquireExclusive l (s.port p).param)).takeAcquire p l .exclusive (s.port p).param) :=
  exec_takenAtOnce (c := .acquireExclusive) (r := .acquireExclusive l _) rfl h.1 rfl h.lock_le (by rw [← h.lockArgument]; rfl)

theorem State.asks.upgrade (h : s.asks p l) : exec (.upgrade p .takenAtOnce) s =
    .next ((s.hand p .upgrade (.upgrade l (s.port p).param)).takeUpgrade p l (s.port p).param) :=
  exec_takenAtOnce (c := .upgrade) (r := .upgrade l _) rfl h.1 rfl h.lock_le (by rw [← h.lockArgument]; rfl)

theorem State.asks.downgrade (h : s.asks p l) :
    exec (.downgrade p .takenAtOnce) s = .next ((s.hand p .downgrade (.downgrade l)).takeDowngrade p l) :=
  exec_takenAtOnce (c := .downgrade) (r := .downgrade l) rfl h.1 rfl h.lock_le (by rw [← h.lockArgument]; rfl)

theorem State.asks.release (h : s.asks p l) :
    exec (.release p .takenAtOnce) s = .next ((s.hand p .release (.release l)).takeRelease p l) :=
  exec_takenAtOnce (c := .release) (r := .release l) rfl h.1 rfl h.lock_le (by rw [← h.lockArgument]; rfl)

theorem State.asks.renew (h : s.asks p l) :
    exec (.renew p .takenAtOnce) s = .next ((s.hand p .renew (.renew l)).takeRenew p l) :=
  exec_takenAtOnce (c := .renew) (r := .renew l) rfl h.1 rfl h.lock_le (by rw [← h.lockArgument]; rfl)

theorem State.asks.queryLock (h : s.asks p l) :
    exec (.queryLock p .takenAtOnce) s = .next ((s.hand p .queryLock (.queryLock l)).takeQuery p l) :=
  exec_takenAtOnce (c := .queryLock) (r := .queryLock l) rfl h.1 rfl h.lock_le (by rw [← h.lockArgument]; rfl)

theorem State.asks.defineLock (h : s.asks p l) (hr : s.rights.holds p = true) (hn : (s.port p).count ≠ 0)
    (hrange : (s.port p).block.toNat + (s.port p).count.toNat ≤ 512) :
    exec (.defineLock p .takenAtOnce) s =
      .next ((s.hand p .defineLock (.defineLock l (s.port p).block (s.port p).count (lowByte (s.port p).dest))).takeDefine p l
        (s.port p).block (s.port p).count (lowByte (s.port p).dest)) :=
  exec_takenAtOnce (c := .defineLock) (r := .defineLock l _ _ _) rfl h.1 hr
    (Bool.and_eq_true_iff.2 ⟨h.lock_le, Bool.and_eq_true_iff.2 ⟨decide_eq_true hn, decide_eq_true hrange⟩⟩)
    (by rw [← h.lockArgument]; rfl)

theorem State.asks.undefineLock (h : s.asks p l) (hr : s.rights.holds p = true) :
    exec (.undefineLock p .takenAtOnce) s = .next ((s.hand p .undefineLock (.undefineLock l)).takeUndefine p l) :=
  exec_takenAtOnce (c := .undefineLock) (r := .undefineLock l) rfl h.1 hr h.lock_le (by rw [← h.lockArgument]; rfl)

theorem State.asks.breakLock (h : s.asks p l) (hr : s.rights.holds p = true) :
    exec (.breakLock p .takenAtOnce) s = .next ((s.hand p .breakLock (.breakLock l)).takeBreak p l) :=
  exec_takenAtOnce (c := .breakLock) (r := .breakLock l) rfl h.1 hr h.lock_le (by rw [← h.lockArgument]; rfl)

end hand

/-- Settles O11: each of the fourteen terms writes a command whose handed request carries the registers as they stand. -/
theorem handedCommandsBegin : Obligations.HandedCommandsBegin := by
  intro s p q l target hs x hx hr ha
  obtain ⟨hi, hq⟩ : exec x.1 s = .next (s.writeHanded p x.2.1 .outstanding) ∧ q.handedRequest x.2.1 = some x.2.2 := by
    fin_cases hx <;> exact ⟨rfl, rfl⟩
  rw [hi, State.writeHanded_outstanding hs hr ha hq]
  exact ⟨_, rfl, s.port_hand p _ _, s.sameBut_onPort p _⟩

end Sys2Proof.Machine
end

/-! # The decisions of the lock table -/

section
namespace Sys2Proof.Machine

/-! ## One equation for each outcome of a request -/

section decisions

variable (s : State) (p : PortId) (l : LockId)

/-! ### ACQUIRE (R41 to R44) -/

section acquire

variable {s p l} {w : Wanted} {limit : Byte}

theorem State.takeAcquire_notDefined (hd : (s.lockAt l).defined = false) :
    s.takeAcquire p l w limit = s.complete p .notDefined := by
  simp [State.takeAcquire, hd]

variable (hd : (s.lockAt l).defined = true)
include hd

theorem State.takeAcquire_alreadyHeld (hh : (s.lockAt l).holds p = true) :
    s.takeAcquire p l w limit = s.complete p .alreadyHeld := by
  simp [State.takeAcquire, hd, hh]

theorem State.takeAcquire_granted (hh : (s.lockAt l).holds p = false) (hg : (s.lockAt l).grantedAtOnce p w = true) :
    s.takeAcquire p l w limit = s.grantNow .betweenTicks l p w := by
  simp [State.takeAcquire, hd, hh, hg]

theorem State.takeAcquire_waits (hh : (s.lockAt l).holds p = false) (hg : (s.lockAt l).grantedAtOnce p w = false) :
    s.takeAcquire p l w limit = s.waitOrRefuse .betweenTicks l p w limit := by
  simp [State.takeAcquire, hd, hh, hg]

end acquire

/-! ### UPGRADE (R46 to R48) -/

section upgrade

variable {s p l} {limit : Byte}

theorem State.takeUpgrade_notDefined (hd : (s.lockAt l).defined = false) :
    s.takeUpgrade p l limit = s.complete p .notDefined := by
  simp [State.takeUpgrade, hd]

variable (hd : (s.lockAt l).defined = true)
include hd

theorem State.takeUpgrade_alreadyHeld (hh : (s.lockAt l).holds p = true) (hm : (s.lockAt l).mode = .exclusive) :
    s.takeUpgrade p l limit = s.complete p .alreadyHeld := by
  simp [State.takeUpgrade, hd, hh, hm]

theorem State.takeUpgrade_notHeld (hh : (s.lockAt l).holds p = false) :
    s.takeUpgrade p l limit = s.complete p .notHeld := by
  simp [State.takeUpgrade, hd, hh]

variable (hh : (s.lockAt l).holds p = true) (hm : (s.lockAt l).mode ≠ .exclusive)
include hh hm

theorem State.takeUpgrade_granted (hs : (s.lockAt l).holderList = [p]) :
    s.takeUpgrade p l limit = s.grantNow .betweenTicks l p .upgrade := by
  simp [State.takeUpgrade, Lock.grantedAtOnce, hd, hh, hm, hs]

theorem State.takeUpgrade_conflict (hs : (s.lockAt l).holderList ≠ [p]) (hu : ∃ w ∈ (s.lockAt l).queue, w.want = .upgrade) :
    s.takeUpgrade p l limit = s.complete p .upgradeConflict := by
  simp [State.takeUpgrade, Lock.grantedAtOnce, hd, hh, hm, hs, hu]

theorem State.takeUpgrade_waits (hs : (s.lockAt l).holderList ≠ [p]) (hu : ∀ w ∈ (s.lockAt l).queue, w.want ≠ .upgrade) :
    s.takeUpgrade p l limit = s.waitOrRefuse .betweenTicks l p .upgrade limit := by
  have hnone : ¬ ∃ w ∈ (s.lockAt l).queue, w.want = .upgrade := fun ⟨w, hw, e⟩ => hu w hw e
  simp [State.takeUpgrade, Lock.grantedAtOnce, hd, hh, hm, hs, hnone]

end upgrade

/-! ### DOWNGRADE, RELEASE, RENEW (R50, R51, R66) -/

section holder

variable {s p l}

theorem State.takeDowngrade_notDefined (hd : (s.lockAt l).defined = false) :
    s.takeDowngrade p l = s.complete p .notDefined := by
  simp [State.takeDowngrade, hd]

theorem State.takeRelease_notDefined (hd : (s.lockAt l).defined = false) : s.takeRelease p l = s.complete p .notDefined := by
  simp [State.takeRelease, hd]

theorem State.takeRenew_notDefined (hd : (s.lockAt l).defined = false) : s.takeRenew p l = s.complete p .notDefined := by
  simp [State.takeRenew, hd]

variable (hd : (s.lockAt l).defined = true)
include hd

theorem State.takeDowngrade_notHeld (hh : ¬ ((s.lockAt l).holds p = true ∧ (s.lockAt l).mode = .exclusive)) :
    s.takeDowngrade p l = s.complete p .notHeld := by
  have h : ((s.lockAt l).holds p && decide ((s.lockAt l).mode = .exclusive)) = false := by simpa using hh
  simp only [State.takeDowngrade, hd, h]
  rfl

theorem State.takeDowngrade_done (hh : (s.lockAt l).holds p = true ∧ (s.lockAt l).mode = .exclusive) :
    s.takeDowngrade p l = ((s.setLock l { s.lockAt l with mode := .shared }).reexamine .betweenTicks l).complete p .none := by
  simp [State.takeDowngrade, hd, hh.1, hh.2]

theorem State.takeRelease_notHeld (hh : (s.lockAt l).holds p = false) : s.takeRelease p l = s.complete p .notHeld := by
  simp [State.takeRelease, hd, hh]

theorem State.takeRelease_done (hh : (s.lockAt l).holds p = true) :
    s.takeRelease p l = ((s.setLock l ((s.lockAt l).dropHold p)).reexamine .betweenTicks l).complete p .none := by
  simp [State.takeRelease, hd, hh]

theorem State.takeRenew_notHeld (hh : (s.lockAt l).holds p = false) : s.takeRenew p l = s.complete p .notHeld := by
  simp [State.takeRenew, hd, hh]

theorem State.takeRenew_unlimited (hh : (s.lockAt l).holds p = true) (hl : (s.lockAt l).lease = 0) :
    s.takeRenew p l = s.complete p .none := by
  simp [State.takeRenew, hd, hh, hl]

theorem State.takeRenew_done (hh : (s.lockAt l).holds p = true) (hl : (s.lockAt l).lease ≠ 0) :
    s.takeRenew p l = (s.setLock l { s.lockAt l with
      holders := (s.lockAt l).holders.set p (some ⟨some (s.now + 10 * (s.lockAt l).lease.toNat + 1)⟩) }).complete p .none := by
  simp only [State.takeRenew, State.leaseDeadline, hd, hh, if_neg hl]
  rfl

end holder

/-! ### QUERY LOCK (R31, R109) -/

section query

variable {s p l}

theorem State.takeQuery_notDefined (hd : (s.lockAt l).defined = false) : s.takeQuery p l = s.complete p .notDefined := by
  simp [State.takeQuery, hd]

variable (hd : (s.lockAt l).defined = true)
include hd

theorem State.takeQuery_offered (ha : (s.port p).held ≠ some .abort) :
    s.takeQuery p l = s.onPort p fun q => { q with outgoing := none }.offerBytes (s.lockRecord l) := by
  simp [State.takeQuery, State.onPort, hd, ha]

theorem State.takeQuery_aborted (ha : (s.port p).held = some .abort) :
    s.takeQuery p l = s.onPort p fun q => ({ q with staging := s.lockRecord l }.discard).complete .aborted := by
  simp [State.takeQuery, State.onPort, hd, ha]

end query

/-! ### DEFINE LOCK and UNDEFINE LOCK (R24, R25, R27) -/

/-- A defined lock meets a run of blocks exactly if it covers one of them. -/
theorem Lock.meets_iff (k : Lock) (first : BlockNo) (n : Byte) :
    k.meets first n = true ↔ ∃ b : BlockNo, k.covers b = true ∧ first.toNat ≤ b.toNat ∧ b.toNat < first.toNat + n.toNat := by
  simp only [Lock.meets, Lock.covers, Bool.and_eq_true, decide_eq_true_eq]
  constructor
  · rintro ⟨hd, hlt⟩
    rcases Nat.le_total k.first.toNat first.toNat with h | h
    · exact ⟨first, ⟨hd, h, by omega⟩, Nat.le_refl _, by omega⟩
    · exact ⟨k.first, ⟨hd, Nat.le_refl _, by omega⟩, h, by omega⟩
  · rintro ⟨b, ⟨hd, hl, hu⟩, hf, hn⟩
    exact ⟨hd, by omega⟩

/-- A block of the run is covered by a lock other than `l`. -/
abbrev State.sharesRun (s : State) (l : LockId) (first : BlockNo) (n : Byte) : Prop :=
  ∃ (i : LockId) (b : BlockNo), i ≠ l ∧ (s.lockAt i).covers b = true ∧ first.toNat ≤ b.toNat ∧
    b.toNat < first.toNat + n.toNat

theorem State.sharesRun_iff (first : BlockNo) (n : Byte) :
    (allLocks.any fun i => i ≠ l && (s.lockAt i).meets first n) = true ↔ s.sharesRun l first n := by
  simp only [List.any_eq_true, mem_allLocks, true_and, Bool.and_eq_true, decide_eq_true_eq, Lock.meets_iff, State.sharesRun,
    exists_and_left]

section define

variable {s p l} {first : BlockNo} {count lease : Byte}

theorem State.takeDefine_defined (hd : (s.lockAt l).defined = true) :
    s.takeDefine p l first count lease = s.complete p .defined := by
  simp [State.takeDefine, hd]

theorem State.takeDefine_overlap (hd : (s.lockAt l).defined = false) (hm : s.sharesRun l first count) :
    s.takeDefine p l first count lease = s.complete p .overlap := by
  simp only [State.takeDefine, hd, (s.sharesRun_iff l first count).2 hm]
  rfl

theorem State.takeDefine_done (hd : (s.lockAt l).defined = false) (hm : ¬ s.sharesRun l first count) :
    s.takeDefine p l first count lease =
      (s.setLock l ⟨true, first, count, lease, .free, Vector.replicate 4 none, []⟩).complete p .none := by
  simp only [State.takeDefine, hd, if_neg (mt (s.sharesRun_iff l first count).1 hm)]
  rfl

/-- A lock that no port holds and none waits for. -/
abbrev Lock.idle (k : Lock) : Prop := (∀ h : PortId, k.holds h = false) ∧ k.queue = []

theorem State.takeUndefine_notDefined (hd : (s.lockAt l).defined = false) :
    s.takeUndefine p l = s.complete p .notDefined := by
  simp [State.takeUndefine, hd]

theorem Lock.not_idle (k : Lock) : ¬ k.idle ↔ k.holderList ≠ [] ∨ k.queue ≠ [] := by
  rw [Lock.idle, ← k.holderList_eq_nil, not_and_or]

theorem State.takeUndefine_busy (hd : (s.lockAt l).defined = true) (hi : ¬ (s.lockAt l).idle) :
    s.takeUndefine p l = s.complete p .lockBusy := by
  simp only [State.takeUndefine, hd, if_pos ((Lock.not_idle _).1 hi)]
  rfl

theorem State.takeUndefine_done (hd : (s.lockAt l).defined = true) (hi : (s.lockAt l).idle) :
    s.takeUndefine p l = (s.setLock l Lock.reset).complete p .none := by
  simp only [State.takeUndefine, hd, if_neg fun h => (Lock.not_idle _).2 h hi]
  rfl

end define

end decisions

/-! ## The effects of those outcomes -/

section effects

variable {s : State} {p : PortId} {l : LockId} {m : Moment}

/-- A lock record is put and a port unit changes. -/
theorem State.setLock_onPort_effect (s : State) (l : LockId) (k : Lock) (p : PortId) (f : Port → Port) :
    ((s.setLock l k).onPort p f).port p = f (s.port p) ∧ ((s.setLock l k).onPort p f).lockAt l = k ∧
      s.sameBut ((s.setLock l k).onPort p f) [p] [l] :=
  ⟨State.port_onPort_self _ p f, s.lockAt_setLock_self l k,
    (s.sameBut_setLock l k).trans (State.sameBut_onPort _ p f) (by simp) (by simp)⟩

/-- A lock record is put and its queue re-examined (R38, R39). -/
theorem State.reexamine_effect (s : State) (m : Moment) (l : LockId) (k : Lock) :
    let r := Lock.admitFrom (s.leaseDeadline m k.lease) k.queue k
    let t := (s.setLock l k).reexamine m l
    t.lockAt l = r.1 ∧ (∀ q, t.port q = if q ∈ r.2 then (s.port q).complete .none else s.port q) ∧ s.sameBut t r.2 [l] := by
  intro r t
  obtain ⟨hlock, hport, hrest⟩ := (s.setLock l k).reexamine_spec m l
  simp only [State.lockAt_setLock_self] at hlock hport
  refine ⟨(hlock l).trans (if_pos rfl), hport, fun q hq => (hport q).trans (if_neg hq), fun i hi => ?_, hrest⟩
  have hne : i ≠ l := List.ne_of_not_mem_cons hi
  rw [hlock, if_neg hne, State.lockAt_setLock_ne _ _ hne]

/-- A lock record is put, its queue re-examined, and the command of port `p` ends NONE (R50, R51). -/
theorem State.reexamine_complete_effect (s : State) (m : Moment) (l : LockId) (k : Lock) (p : PortId) :
    let r := Lock.admitFrom (s.leaseDeadline m k.lease) k.queue k
    let t := ((s.setLock l k).reexamine m l).complete p .none
    t.lockAt l = r.1 ∧ t.port p = (s.port p).complete .none ∧
      (∀ q ∈ r.2, q ≠ p → t.port q = (s.port q).complete .none) ∧ s.sameBut t (p :: r.2) [l] := by
  intro r t
  obtain ⟨hlock, hport, hsame⟩ := s.reexamine_effect m l k
  refine ⟨hlock, ?_, fun q hq hne => ?_, hsame.trans (State.sameBut_onPort _ p _) ?_ (by simp)⟩
  · rw [State.port_complete, if_pos rfl, hport]
    split <;> rfl
  · rw [State.port_complete, if_neg hne, hport, if_pos hq]
  · rintro q (hq | hq)
    · exact List.mem_cons_of_mem _ hq
    · exact List.mem_cons.2 (.inl (List.mem_singleton.1 hq))

/-! ### A request that may wait -/

/-- A new wait closes a cycle exactly if the port is reachable from a holder other than itself (R54). -/
theorem State.wouldDeadlock_iff (s : State) (p : PortId) (l : LockId) :
    s.wouldDeadlock p l = true ↔ ∃ h : PortId, h ≠ p ∧ (s.lockAt l).holds h = true ∧ s.reachable h p := by
  simp only [State.wouldDeadlock, List.any_eq_true, mem_allPorts, true_and, Bool.and_eq_true, decide_eq_true_eq,
    State.reaches_four_iff, and_assoc]

/-- The queue with an entry placed: at the head for UPGRADE, else at the tail (R44, R48). -/
def Lock.queueWith (k : Lock) (w : Waiter) : List Waiter :=
  match w.want with
  | .upgrade => w :: k.queue
  | .shared | .exclusive => k.queue ++ [w]

theorem State.placeEntry_eq (s : State) (m : Moment) (l : LockId) (p : PortId) (w : Wanted) (limit : Byte) :
    s.placeEntry m l p w limit =
      (s.setLock l { s.lockAt l with queue := (s.lockAt l).queueWith ⟨p, w, s.waitDeadline m limit⟩ }).onPort p
        fun q => { q with state := .waitLock, outgoing := none } := by
  cases w <;> rfl

variable {w : Wanted} {limit : Byte}

theorem State.waitOrRefuse_wouldWait (h : limit = 0) : s.waitOrRefuse m l p w limit = s.complete p .wouldWait := by
  simp [State.waitOrRefuse, h]

theorem State.waitOrRefuse_deadlock (h : limit ≠ 0)
    (hc : ∃ h : PortId, h ≠ p ∧ (s.lockAt l).holds h = true ∧ s.reachable h p) :
    s.waitOrRefuse m l p w limit = s.complete p .deadlock := by
  rw [State.waitOrRefuse, if_neg h, if_pos ((s.wouldDeadlock_iff p l).2 hc)]

theorem State.waitOrRefuse_placed (h : limit ≠ 0)
    (hc : ¬ ∃ h : PortId, h ≠ p ∧ (s.lockAt l).holds h = true ∧ s.reachable h p) :
    s.waitOrRefuse m l p w limit = s.placeEntry m l p w limit := by
  rw [State.waitOrRefuse, if_neg h, if_neg (mt (s.wouldDeadlock_iff p l).1 hc)]

end effects

/-! ## The refusals at the table -/

/-- Settles O15: the first check that fails decides the request, and its answer is all that changes. -/
theorem lockCommandsRefused : Obligations.LockCommandsRefused := by
  refine ⟨?_, ?_, ?_⟩
  · intro s p l hs k x hx
    obtain ⟨w, c, r, hi, hg⟩ : ∃ w c r, exec x.1 s = .next ((s.hand p c r).takeAcquire p l w (s.port p).param) ∧
        (x.2 = true → k.grantedAtOnce p w = false) := by
      fin_cases hx
      · exact ⟨_, _, _, hs.acquireShared, fun h => by simpa [Lock.grantedAtOnce, imp_iff_not_or] using h⟩
      · exact ⟨_, _, _, hs.acquireExclusive, fun h => by simpa [Lock.grantedAtOnce] using h⟩
    refine ⟨fun hd => ?_, fun hd hh => ?_, fun hd hh hx hl => ?_⟩
    · exact exec_answered hi (State.takeAcquire_notDefined hd)
    · exact exec_answered hi (State.takeAcquire_alreadyHeld hd hh)
    · exact exec_answered hi
        ((State.takeAcquire_waits (s := s.hand p c r) hd hh (hg hx)).trans (State.waitOrRefuse_wouldWait hl))
  · intro s p l hs k refuses
    have refused : ∀ {e}, (s.hand p .upgrade (.upgrade l (s.port p).param)).takeUpgrade p l (s.port p).param =
        (s.hand p .upgrade (.upgrade l (s.port p).param)).complete p e → refuses e :=
      fun {e} h => exec_answered hs.upgrade h
    refine ⟨fun hd => ?_, fun hd hh hm => ?_, fun hd hh => ?_, fun hd hh hm ho => ⟨fun hu => ?_, fun hu hl => ?_⟩⟩
    · exact refused (State.takeUpgrade_notDefined hd)
    · exact refused (State.takeUpgrade_alreadyHeld hd hh hm)
    · exact refused (State.takeUpgrade_notHeld hd hh)
    · exact refused (State.takeUpgrade_conflict hd hh hm ho hu)
    · exact refused ((State.takeUpgrade_waits (s := s.hand p _ _) hd hh hm ho hu).trans (State.waitOrRefuse_wouldWait hl))
  · intro s p l hs k x hx
    fin_cases hx
    · exact ⟨fun hd => exec_answered hs.downgrade (State.takeDowngrade_notDefined hd), fun hd hh =>
        exec_answered hs.downgrade (State.takeDowngrade_notHeld hd (of_decide_eq_false hh))⟩
    · exact ⟨fun hd => exec_answered hs.release (State.takeRelease_notDefined hd), fun hd hh =>
        exec_answered hs.release (State.takeRelease_notHeld hd hh)⟩
    · exact ⟨fun hd => exec_answered hs.renew (State.takeRenew_notDefined hd), fun hd hh =>
        exec_answered hs.renew (State.takeRenew_notHeld hd hh)⟩

end Sys2Proof.Machine
end

/-! # Setting up and breaking a lock, and the access it gives -/

section
namespace Sys2Proof.Machine

section answered

variable {s u : State} {p : PortId} {c : Command} {r : HandedRequest} {i : Instr}

/-- A command that its block answers with a kind and one changed lock record ends so (R101). -/
theorem exec_answered_setLock {l : LockId} {k : Lock} {e : ErrorKind} (hi : exec i s = .next u)
    (hu : u = ((s.hand p c r).setLock l k).complete p e) :
    ∃ t, exec i s = .next t ∧ t.port p = (s.port p).answered e ∧ t.lockAt l = k ∧ s.sameBut t [p] [l] := by
  obtain ⟨hport, hlock, hsame⟩ := (s.hand p c r).setLock_onPort_effect l k p fun q => q.complete e
  rw [State.port_hand] at hport
  exact ⟨u, hi, by rw [hu]; exact hport, by rw [hu]; exact hlock, by
    rw [hu]; exact hsame.of_onPort List.mem_cons_self⟩

end answered

/-- Settles O20: a run of blocks overlaps another lock exactly if that lock covers one of them (R24). -/
theorem defineAndUndefineLock : Obligations.DefineAndUndefineLock := by
  refine ⟨?_, ?_⟩
  · intro s p l hs hr q shares hn hrange
    have hi := hs.defineLock hr hn hrange
    refine ⟨fun hd => ?_, fun hd hsh => ?_, fun hd hsh => ?_⟩
    · exact exec_answered hi (State.takeDefine_defined hd)
    · exact exec_answered hi (State.takeDefine_overlap hd hsh)
    · exact exec_answered_setLock hi (State.takeDefine_done hd hsh)
  · intro s p l hs hr k idle
    have hi := hs.undefineLock hr
    refine ⟨fun hd => ?_, fun hd hidle => ?_, fun hd hidle => ?_⟩
    · exact exec_answered hi (State.takeUndefine_notDefined hd)
    · exact exec_answered hi (State.takeUndefine_busy hd hidle)
    · exact exec_answered_setLock hi (State.takeUndefine_done hd hidle)

/-! ## The access check (R20, R22) -/

section access

variable {s : State} {b : BlockNo} {l : LockId}

theorem State.covering_none (h : ∀ l, (s.lockAt l).covers b = false) : s.covering b = none :=
  List.find?_eq_none.2 fun l _ => by simp [h l]

/-- Of two locks that cover a block, one meets the other's range. -/
theorem Lock.meets_of_covers {k k' : Lock} (h : k.covers b = true) (h' : k'.covers b = true) :
    k'.meets k.first k.count = true := by
  refine (k'.meets_iff _ _).2 ⟨b, h', ?_⟩
  simpa [Lock.covers] using (Bool.and_eq_true_iff.1 h).2

/-- A block has one covering lock at most (R25). -/
theorem State.covering_some (hd : s.rangesDisjoint) (h : (s.lockAt l).covers b = true) : s.covering b = some l := by
  cases hf : s.covering b with
  | none => exact absurd h (by simpa using List.find?_eq_none.1 hf l (mem_allLocks l))
  | some m =>
    have hm : (s.lockAt m).covers b = true := List.find?_some (p := fun l => (s.lockAt l).covers b) hf
    by_contra hne
    have := hd l m (fun e => hne (by rw [e])) (Bool.and_eq_true_iff.1 h).1
    rw [Lock.meets_of_covers h hm] at this
    cases this

end access

/-- Settles O42: with disjoint ranges the lock found is the one that covers the block. -/
theorem accessCheck : Obligations.AccessCheck := by
  intro s p b hd
  refine ⟨fun h => ?_, fun l h => ?_, fun d => ⟨rfl, rfl, rfl, rfl⟩, fun d => rfl⟩
  · simp only [State.mayRead, State.mayWrite, State.covering_none h, and_self]
  · simp only [State.mayRead, State.mayWrite, State.covering_some hd h, Bool.and_eq_true, decide_eq_true_eq, and_self, iff_self]

/-! ## BREAK LOCK (R29) -/

/-- A record that BREAK LOCK has taken every hold and every UPGRADE entry from, before its re-examination. -/
def Lock.broken (k : Lock) : Lock :=
  { k with mode := .free, holders := Vector.replicate 4 none, queue := k.queue.filter fun w => w.want ≠ .upgrade }

/-- The port of an UPGRADE entry. -/
theorem Lock.mem_upgraders (k : Lock) (q : PortId) :
    q ∈ (k.queue.filter fun w => w.want = .upgrade).map Waiter.port ↔ k.upgrades q = true := by
  simp [Lock.upgrades, and_assoc, and_comm, and_left_comm]

/-- A port unit that finds a broken lock in its lost set if it held it (R29, R76). -/
def State.bereft (s : State) (l : LockId) (q : PortId) : Port :=
  if (s.lockAt l).holds q then (s.port q).addLost l else s.port q

/-- The ports once BREAK LOCK has entered the lost sets and ended the UPGRADE waits. -/
def State.bereave (s : State) (l : LockId) : State :=
  (s.addLostAll (s.lockAt l).holderList l).completeAll
    (((s.lockAt l).queue.filter fun w => w.want = .upgrade).map Waiter.port) .holdLost

section bereave

variable (s : State) (l : LockId)

theorem State.port_bereave (q : PortId) :
    (s.bereave l).port q = if (s.lockAt l).upgrades q then (s.bereft l q).complete .holdLost else s.bereft l q := by
  simp only [State.bereave, State.port_completeAll, State.port_addLostAll, Lock.mem_upgraders, Lock.mem_holderList]
  rfl

theorem State.sameBut_bereave : s.sameBut (s.bereave l) allPorts [] := by
  have lock : ∀ i, (s.bereave l).lockAt i = s.lockAt i := fun i => by
    rw [State.bereave, State.lockAt_completeAll]
    simp only [State.lockAt, (s.addLostAll_rest _ l).1]
  exact ⟨fun q hq => absurd (mem_allPorts q) hq, fun i _ => lock i,
    (s.keepsBehind_addLostAll _ l).trans (State.keepsBehind_completeAll _ _ _)⟩

variable {s l}

theorem State.takeBreak_notDefined {p : PortId} (hd : (s.lockAt l).defined = false) :
    s.takeBreak p l = s.complete p .notDefined := by
  simp [State.takeBreak, hd]

theorem State.takeBreak_done {p : PortId} (hd : (s.lockAt l).defined = true) :
    s.takeBreak p l = (((s.bereave l).setLock l (s.lockAt l).broken).reexamine .betweenTicks l).complete p .none := by
  rw [State.bereave, ← State.front.setLock_completeAll, ← State.addLostAll_setLock]
  exact if_neg (by simp [hd])

/-- Every hold goes into a lost set, UPGRADE waits end HOLD_LOST, and the queue of the rest is re-examined (R29, R38). -/
theorem State.takeBreak_effect (hd : (s.lockAt l).defined = true) (p : PortId) :
    let k := s.lockAt l
    let r := Lock.admitFrom (s.leaseDeadline .betweenTicks k.lease) k.broken.queue k.broken
    let t := s.takeBreak p l
    t.lockAt l = r.1 ∧ t.port p = (s.bereft l p).complete .none ∧
      (∀ q, q ≠ p → q ∈ r.2 → t.port q = (s.bereft l q).complete .none) ∧
      (∀ q, q ≠ p → q ∉ r.2 → k.upgrades q = true → t.port q = (s.bereft l q).complete .holdLost) ∧
      (∀ q, q ≠ p → q ∉ r.2 → k.upgrades q = false → t.port q = s.bereft l q) ∧ s.sameBut t allPorts [l] := by
  intro k r t
  have hsame := s.sameBut_bereave l
  obtain ⟨-, -, -, -, -, -, hnow, -⟩ := hsame
  obtain ⟨hlock, hp, hgranted, hkept⟩ := (s.bereave l).reexamine_complete_effect .betweenTicks l k.broken p
  have hdeadline : (s.bereave l).leaseDeadline .betweenTicks k.broken.lease = s.leaseDeadline .betweenTicks k.lease := by
    simp only [State.leaseDeadline, State.deadline, hnow]
    rfl
  rw [hdeadline] at hlock hgranted hkept
  have ht : t = (((s.bereave l).setLock l k.broken).reexamine .betweenTicks l).complete p .none := State.takeBreak_done hd
  rw [← ht] at hlock hp hgranted hkept
  have others : ∀ q, q ≠ p → q ∉ r.2 → t.port q = (s.bereave l).port q := fun q hq hn =>
    hkept.1 q (by simpa using ⟨hq, hn⟩)
  refine ⟨hlock, ?_, fun q hq hm => ?_, fun q hq hn hu => ?_, fun q hq hn hu => ?_, ?_⟩
  · rw [hp, State.port_bereave]
    split <;> rfl
  · rw [hgranted q hm hq, State.port_bereave]
    split <;> rfl
  · rw [others q hq hn, State.port_bereave, if_pos hu]
  · rw [others q hq hn, State.port_bereave, if_neg (ne_true_of_eq_false hu)]
  · exact (s.sameBut_bereave l).trans hkept (fun q _ => mem_allPorts q) (by simp)

end bereave

/-- Settles O21: with the command accepted the other ports are as they were, and so is the table. -/
theorem breakLock : Obligations.BreakLock := by
  intro s p l hs hr k rest r lost
  have hi := hs.breakLock hr
  have accepted : ∀ q, q ≠ p → (s.hand p .breakLock (.breakLock l)).bereft l q = lost q := fun q hq => by
    simp only [State.bereft, State.port_hand_ne hq]
    rfl
  refine ⟨fun hd => exec_answered hi (State.takeBreak_notDefined hd), fun hd => ?_⟩
  obtain ⟨hlock, hp, hgranted, hlost, hrest, hsame⟩ :=
    State.takeBreak_effect (s := s.hand p .breakLock (.breakLock l)) (l := l) hd p
  refine ⟨_, hi, hlock, ?_, fun q hq hm => ?_, fun q hq hn hu => ?_, fun q hq hn hu => ?_,
    hsame.of_onPort (mem_allPorts p)⟩
  · rw [hp, State.bereft, State.port_hand, State.lockAt_hand]
    by_cases hh : k.holds p = true
    · rw [if_pos hh, show lost p = _ from if_pos hh]
      rfl
    · rw [if_neg hh, show lost p = _ from if_neg hh]
      rfl
  · rw [hgranted q hq hm, accepted q hq]
  · rw [hlost q hq hn hu, accepted q hq]
  · rw [hrest q hq hn hu, accepted q hq]

end Sys2Proof.Machine
end

/-! # The lock record -/

section
namespace Sys2Proof.Machine

/-! ## The bytes of a record -/

/-- A byte of a record: the byte listed, or 00h after the last (R166). -/
theorem record_getElem (bs : List Byte) {j : Nat} (hj : j < 128) : (record bs)[j] = bs.getD j 0 :=
  getElem_tabulate 128 _ hj

/-- Entries of `n` items each, one after the other: item `j` of entry `i`. -/
theorem getElem?_flatMap_entries {α β : Type} {f : α → List β} {n : Nat} (hf : ∀ a, (f a).length = n) (as : List α) (i : Nat)
    {j : Nat} (hj : j < n) : (as.flatMap f)[n * i + j]? = as[i]?.bind fun a => (f a)[j]? := by
  induction as generalizing i with
  | nil => simp
  | cons a as ih =>
    cases i with
    | zero => simp [List.getElem?_append_left, hf, hj]
    | succ i =>
      have hle : (f a).length ≤ n * (i + 1) + j := by rw [hf, Nat.mul_succ]; omega
      have hsub : n * (i + 1) + j - (f a).length = n * i + j := by rw [hf, Nat.mul_succ]; omega
      rw [List.flatMap_cons, List.getElem?_append_right hle, hsub, ih i]
      rfl

section lockRecord

variable (s : State) (l : LockId)

/-- Bytes 0 to 12 of a lock record (R168). -/
def State.recordHeader : List Byte :=
  let k := s.lockAt l
  [BitVec.ofNat 8 l.val, flagByte k.defined, k.mode.code, BitVec.ofNat 8 k.first.toNat, BitVec.ofNat 8 (k.first.toNat / 256),
    k.count, k.lease, k.holderMask, s.remainingLease k 0, s.remainingLease k 1, s.remainingLease k 2, s.remainingLease k 3,
    BitVec.ofNat 8 k.queue.length]

/-- The three bytes of a waiter in a lock record (R168). -/
def State.recordEntry (w : Waiter) : List Byte := [BitVec.ofNat 8 w.port.val, w.want.code, s.remaining w.deadline]

theorem State.lockRecord_eq : s.lockRecord l = record (s.recordHeader l ++ (s.lockAt l).queue.flatMap s.recordEntry) := rfl

theorem State.lockRecord_header {j : Nat} (hj : j < 13) : (s.lockRecord l)[j] = (s.recordHeader l).getD j 0 := by
  rw [State.lockRecord_eq, record_getElem _ (by omega), List.getD_append _ _ _ _ hj]

theorem State.lockRecord_tail {j : Nat} (hj : 13 + j < 128) :
    (s.lockRecord l)[13 + j] = (((s.lockAt l).queue.flatMap s.recordEntry)[j]?).getD 0 := by
  have hlen : (s.recordHeader l).length = 13 := rfl
  rw [State.lockRecord_eq, record_getElem _ hj, List.getD_append_right _ _ _ _ (by omega), hlen, Nat.add_sub_cancel_left,
    List.getD_eq_getElem?_getD]

variable {s l}

/-- Byte `j` of the entry of waiter `i`. -/
theorem State.lockRecord_entry {i j n : Nat} {w : Waiter} (hw : (s.lockAt l).queue[i]? = some w) (hj : j < 3)
    (hn : n = 13 + (3 * i + j)) (hlt : n < 128) : (s.lockRecord l)[n] = (s.recordEntry w).getD j 0 := by
  subst hn
  rw [State.lockRecord_tail s l hlt, getElem?_flatMap_entries (f := s.recordEntry) (fun _ => rfl) _ i hj, hw, Option.bind_some,
    List.getD_eq_getElem?_getD]

/-- Behind the last waiter a lock record is 00h. -/
theorem State.lockRecord_end {j : Nat} (hj : j < 128) (h : 13 + 3 * (s.lockAt l).queue.length ≤ j) :
    (s.lockRecord l)[j] = 0 := by
  have hlen : ((s.lockAt l).queue.flatMap s.recordEntry).length = 3 * (s.lockAt l).queue.length := by
    simp [List.length_flatMap, State.recordEntry, Nat.mul_comm]
  obtain ⟨n, rfl⟩ := Nat.exists_eq_add_of_le (Nat.le_trans (Nat.le_add_right 13 _) h)
  rw [State.lockRecord_tail s l hj, List.getElem?_eq_none (by omega), Option.getD_none]

end lockRecord

/-- Bit `i` of the holder mask tells whether port `i` holds the lock (R168). -/
theorem Lock.holderMask_bit (k : Lock) (i : Fin 8) :
    k.holderMask.getLsbD i.val = decide (∃ q : PortId, q.val = i.val ∧ k.holds q = true) := by
  have bits : ∀ (a b c d : Bool) (i : Fin 8), (0#4 ++ BitVec.ofBool d ++ BitVec.ofBool c ++ BitVec.ofBool b ++
      BitVec.ofBool a).getLsbD i.val = [a, b, c, d].getD i.val false := by decide
  refine (bits _ _ _ _ i).trans ?_
  fin_cases i <;> simp [Fin.exists_fin_succ]

/-- The remaining lease of a port without a hold (R168). -/
theorem State.remainingLease_none (s : State) {k : Lock} {q : PortId} (h : k.holders[q] = none) :
    s.remainingLease k q = 0xFF := by
  simp only [State.remainingLease, h]

/-- The remaining lease of a holder: that of its deadline, which is absent while the lease length is 0 (R32, R65). -/
theorem State.remainingLease_some (s : State) {k : Lock} (hk : k.sound) {q : PortId} {e : Hold} (h : k.holders[q] = some e) :
    s.remainingLease k q = s.remaining e.lease := by
  obtain ⟨-, -, -, hl⟩ := hk
  simp only [State.remainingLease, h]
  split_ifs with hz
  · rw [(hl q e h).2 hz]
    rfl
  · rfl

/-- Settles O19: the snapshot is the record of the table as it is, whose bytes stand where R168 says. -/
theorem queryLockRecord : Obligations.QueryLockRecord := by
  intro s p l hs hheld k left
  have hi := hs.queryLock
  have hleft : ∀ d, left d = s.remaining d := fun d => by cases d <;> rfl
  refine ⟨fun hd => exec_answered hi (State.takeQuery_notDefined hd), fun hd hlen hk => ?_⟩
  obtain ⟨t, ht, hsame, hport⟩ : ∃ t, exec (.queryLock p .takenAtOnce) s = .next t ∧ s.sameBut t [p] [] ∧
      t.port p = { (s.port p).hand .queryLock (.queryLock l) with
        state := .dataIn, index := 0, outgoing := none, staging := s.lockRecord l } := by
    have hnone : ((s.hand p .queryLock (.queryLock l)).port p).held ≠ some .abort := by
      rw [State.port_hand]
      exact fun h => nomatch hheld.symm.trans h
    refine ⟨_, hi.trans (congrArg _ (State.takeQuery_offered hd hnone)), (State.sameBut_onPort _ p _).of_onPort (by simp), ?_⟩
    rw [State.port_onPort_self, State.port_hand]
    rfl
  have hbytes : (t.port p).staging = s.lockRecord l := by rw [hport]
  have header : ∀ {j : Nat} (hj : j < 13), (s.lockRecord l)[j] = (s.recordHeader l).getD j 0 := s.lockRecord_header l
  refine ⟨t, ht, hsame, by rw [hport]; rfl, ?_⟩
  simp only [hbytes]
  refine ⟨header (by decide), ?_, ?_, header (by decide), header (by decide), header (by decide), header (by decide),
    fun i => ?_, fun q => ?_, header (by decide), fun i w hw => ?_, fun j hj => State.lockRecord_end j.isLt hj⟩
  · exact (header (j := 1) (by decide)).trans (congrArg flagByte hd)
  · refine (header (j := 2) (by decide)).trans ?_
    show k.mode.code = _
    cases k.mode <;> rfl
  · rw [header (j := 7) (by decide)]
    exact k.holderMask_bit i
  · have hbyte : (s.lockRecord l)[8 + q.val]'(by omega) = s.remainingLease k q := by
      rw [header (by omega)]
      fin_cases q <;> rfl
    rw [hbyte]
    cases hh : k.holders[q] with
    | none => exact s.remainingLease_none hh
    | some e => exact (s.remainingLease_some hk hh).trans (hleft e.lease).symm
  · have entry : ∀ {j n : Nat} (_ : j < 3) (_ : n = 13 + (3 * i.val + j)) (hn : n < 128),
        (s.lockRecord l)[n] = (s.recordEntry w).getD j 0 := State.lockRecord_entry hw
    refine ⟨entry (j := 0) (by decide) rfl (by omega), ?_, ?_⟩
    · refine (entry (j := 1) (by decide) (by omega) (by omega)).trans ?_
      show w.want.code = _
      cases w.want <;> rfl
    · exact (entry (j := 2) (by decide) (by omega) (by omega)).trans (hleft w.deadline).symm

end Sys2Proof.Machine
end

/-! # A handed request arrives at its block -/

section
namespace Sys2Proof.Machine

/-! ## Ways in which a command of port `p` goes on -/

section outcomes

/-- Command `i` ends the command of port `p` with a kind, and nothing else changes. -/
abbrev State.endsCommand (s : State) (i : Instr) (p : PortId) (e : ErrorKind) : Prop :=
  ∃ t, exec i s = .next t ∧ t.port p = (s.port p).complete e ∧ s.sameBut t [p] []

/-- Command `i` ends the command of port `p` with NONE and puts the record of lock `l`. -/
abbrev State.putsRecord (s : State) (i : Instr) (p : PortId) (l : LockId) (k : Lock) : Prop :=
  ∃ t, exec i s = .next t ∧ t.port p = (s.port p).complete .none ∧ t.lockAt l = k ∧ s.sameBut t [p] [l]

/-- Command `i` refuses the wait of port `p` on lock `l`, or places its entry so that the queue is as given (R41, R46). -/
abbrev State.waitsOrEnds (s : State) (i : Instr) (p : PortId) (l : LockId) (limit : Byte) (queue : List Waiter) : Prop :=
  let closes := ∃ h : PortId, h ≠ p ∧ (s.lockAt l).holds h = true ∧ s.reachable h p
  (limit = 0 → s.endsCommand i p .wouldWait) ∧ (limit ≠ 0 → closes → s.endsCommand i p .deadlock) ∧
    (limit ≠ 0 → ¬ closes → ∃ t, exec i s = .next t ∧ t.port p = { s.port p with state := .waitLock, outgoing := none } ∧
      t.lockAt l = { s.lockAt l with queue := queue } ∧ s.sameBut t [p] [l])

theorem State.sameBut_complete (s : State) (p : PortId) (e : ErrorKind) : s.sameBut (s.complete p e) [p] [] :=
  s.sameBut_onPort p _

variable {s u : State} {i : Instr} {p : PortId} {l : LockId} (hi : exec i s = .next u)
include hi

theorem exec_ends {e : ErrorKind} (hu : u = s.complete p e) : s.endsCommand i p e := by
  subst hu
  exact ⟨_, hi, s.port_onPort_self p _, s.sameBut_onPort p _⟩

theorem exec_puts {k : Lock} (hu : u = (s.setLock l k).complete p .none) : s.putsRecord i p l k := by
  subst hu
  exact ⟨_, hi, s.setLock_onPort_effect l k p _⟩

theorem exec_waits {w : Wanted} {limit : Byte} (hu : u = s.waitOrRefuse .betweenTicks l p w limit) :
    s.waitsOrEnds i p l limit ((s.lockAt l).queueWith ⟨p, w, s.waitDeadline .betweenTicks limit⟩) := by
  refine ⟨fun h => ?_, fun h hc => ?_, fun h hc => ?_⟩
  · exact exec_ends hi (hu.trans (State.waitOrRefuse_wouldWait h))
  · exact exec_ends hi (hu.trans (State.waitOrRefuse_deadlock h hc))
  · rw [hi, hu, State.waitOrRefuse_placed h hc, State.placeEntry_eq]
    exact ⟨_, rfl, s.setLock_onPort_effect l _ p _⟩

end outcomes

section arrival

variable {s : State} {p : PortId} {l : LockId} {i : Instr}

/-- A handed request that is on its way arrives and is taken (R96). -/
theorem exec_arrival {r : HandedRequest} (h : (s.port p).outgoing = some (.handed r)) :
    exec (.handedRequestArrival p) s = .next (s.takeRequest p r) :=
  congrArg Host.Outcome.next (State.arriveHanded_taken h)

/-! ## ACQUIRE and UPGRADE -/

/-- An ACQUIRE at the table (R41 to R44). -/
theorem exec_takeAcquire {w : Wanted} {limit : Byte} (hi : exec i s = .next (s.takeAcquire p l w limit)) :
    let k := s.lockAt l
    (k.defined = false → s.endsCommand i p .notDefined) ∧
    (k.defined = true → k.holds p = true → s.endsCommand i p .alreadyHeld) ∧
    (k.defined = true → k.holds p = false → k.grantedAtOnce p w = true →
      s.putsRecord i p l (k.grant p w (s.leaseDeadline .betweenTicks k.lease))) ∧
    (k.defined = true → k.holds p = false → k.grantedAtOnce p w = false →
      s.waitsOrEnds i p l limit (k.queueWith ⟨p, w, s.waitDeadline .betweenTicks limit⟩)) := by
  refine ⟨fun hd => ?_, fun hd hh => ?_, fun hd hh hg => ?_, fun hd hh hg => ?_⟩
  · exact exec_ends hi (State.takeAcquire_notDefined hd)
  · exact exec_ends hi (State.takeAcquire_alreadyHeld hd hh)
  · exact exec_puts hi (State.takeAcquire_granted hd hh hg)
  · exact exec_waits hi (State.takeAcquire_waits hd hh hg)

/-- An UPGRADE at the table (R46 to R48). -/
theorem exec_takeUpgrade {limit : Byte} (hi : exec i s = .next (s.takeUpgrade p l limit)) :
    let k := s.lockAt l
    (k.defined = false → s.endsCommand i p .notDefined) ∧
    (k.defined = true → k.holds p = true → k.mode = .exclusive → s.endsCommand i p .alreadyHeld) ∧
    (k.defined = true → k.holds p = false → s.endsCommand i p .notHeld) ∧
    (k.defined = true → k.holds p = true → k.mode ≠ .exclusive →
      (k.holderList = [p] → s.putsRecord i p l (k.grant p .upgrade (s.leaseDeadline .betweenTicks k.lease))) ∧
      (k.holderList ≠ [p] → (∃ w ∈ k.queue, w.want = .upgrade) → s.endsCommand i p .upgradeConflict) ∧
      (k.holderList ≠ [p] → (∀ w ∈ k.queue, w.want ≠ .upgrade) →
        s.waitsOrEnds i p l limit (⟨p, .upgrade, s.waitDeadline .betweenTicks limit⟩ :: k.queue))) := by
  refine ⟨fun hd => ?_, fun hd hh hm => ?_, fun hd hh => ?_, fun hd hh hm => ⟨fun hs => ?_, fun hs hu => ?_, fun hs hu => ?_⟩⟩
  · exact exec_ends hi (State.takeUpgrade_notDefined hd)
  · exact exec_ends hi (State.takeUpgrade_alreadyHeld hd hh hm)
  · exact exec_ends hi (State.takeUpgrade_notHeld hd hh)
  · exact exec_puts hi (State.takeUpgrade_granted hd hh hm hs)
  · exact exec_ends hi (State.takeUpgrade_conflict hd hh hm hs hu)
  · exact exec_waits hi (State.takeUpgrade_waits hd hh hm hs hu)

/-! ## The commands of a holder -/

/-- What RELEASE leaves of a record before its re-examination: FREE once the last holder is gone (R19, R51). -/
theorem Lock.dropHold_eq (k : Lock) (p : PortId) :
    k.dropHold p = { k with
      holders := k.holders.set p none
      mode := if ∀ h : PortId, h ≠ p → k.holds h = false then LockMode.free else k.mode } := by
  have hmode : (k.dropHold p).mode = if ∀ h : PortId, h ≠ p → k.holds h = false then LockMode.free else k.mode := by
    rw [k.dropHold_mode]
    exact if_congr (by simp [imp_iff_not_or]) rfl rfl
  rw [← hmode]
  rfl

/-- A record is put, its queue re-examined, and the command of port `p` ends NONE (R50, R51). -/
theorem exec_reexamines {k : Lock} {u : State} (hi : exec i s = .next u)
    (hu : u = ((s.setLock l k).reexamine .betweenTicks l).complete p .none) :
    let r := Lock.admitFrom (s.leaseDeadline .betweenTicks k.lease) k.queue k
    ∃ t, exec i s = .next t ∧ t.lockAt l = r.1 ∧ t.port p = (s.port p).complete .none ∧
      (∀ q ∈ r.2, q ≠ p → t.port q = (s.port q).complete .none) ∧ s.sameBut t (p :: r.2) [l] := by
  subst hu
  exact ⟨_, hi, s.reexamine_complete_effect .betweenTicks l k p⟩

/-- A RENEW at the table (R66). -/
theorem exec_takeRenew (hi : exec i s = .next (s.takeRenew p l)) :
    let k := s.lockAt l
    (k.defined = false → s.endsCommand i p .notDefined) ∧
    (k.defined = true → k.holds p = false → s.endsCommand i p .notHeld) ∧
    (k.defined = true → k.holds p = true → k.lease = 0 → s.endsCommand i p .none) ∧
    (k.defined = true → k.holds p = true → k.lease ≠ 0 → s.putsRecord i p l
      { k with holders := k.holders.set p (some ⟨some (s.now + 10 * k.lease.toNat + 1)⟩) }) := by
  refine ⟨fun hd => ?_, fun hd hh => ?_, fun hd hh hl => ?_, fun hd hh hl => ?_⟩
  · exact exec_ends hi (State.takeRenew_notDefined hd)
  · exact exec_ends hi (State.takeRenew_notHeld hd hh)
  · exact exec_ends hi (State.takeRenew_unlimited hd hh hl)
  · exact exec_puts hi (State.takeRenew_done hd hh hl)

/-! ## Notes and settings -/

/-- SET RIGHTS gives or takes the right of the port named, if it has an entry (R154, R155). -/
theorem Rights.holds_give (r : Rights) {target : PortId} (h : target ≠ 0) (give : Bool) (q : PortId) :
    (r.give target give).holds q = if q = target then give else r.holds q := by
  fin_cases target
  · exact absurd rfl h
  all_goals fin_cases q <;> rfl

/-- SET SCRUB at the scrubber, by its phase (R151). -/
theorem State.takeSetScrub_effect (s : State) (n : Byte) :
    let c := s.scrubber
    let t := s.takeSetScrub n
    t = { s with scrubber := t.scrubber, arbiter := t.arbiter } ∧
    (c.phase = .off ∨ c.phase = .timing → t.arbiter = s.arbiter ∧
      t.scrubber = if n = 0 then ⟨0, c.position, .off, none⟩ else ⟨n, c.position, .timing, some ⟨0, n.toNat + 1⟩⟩) ∧
    (c.phase = .requested → n = 0 → t.scrubber = ⟨0, c.position, .off, none⟩ ∧
      t.arbiter = { s.arbiter with scrubReq := none, scrubWait := 0 }) ∧
    (c.phase = .requested → n ≠ 0 → t.scrubber = { c with interval := n } ∧ t.arbiter = s.arbiter) ∧
    (c.phase = .scrubbing → t.scrubber = { c with interval := n } ∧ t.arbiter = s.arbiter) := by
  intro c
  have started : (if n = 0 then { c with interval := n }.turnOff else { c with interval := n }.startTimer .betweenTicks) =
      if n = 0 then ⟨0, c.position, .off, none⟩ else ⟨n, c.position, .timing, some ⟨0, n.toNat + 1⟩⟩ := by
    split_ifs with hn
    · rw [hn]; rfl
    · rfl
  have other : ∀ {x y : ScrubPhase} {P : Prop}, s.scrubber.phase = x → x ≠ y → c.phase = y → P := fun hx hne hy =>
    absurd (hx.symm.trans hy) hne
  simp only [State.takeSetScrub]
  split <;> rename_i hph
  · exact ⟨rfl, fun _ => ⟨rfl, started⟩, other hph nofun, other hph nofun, other hph nofun⟩
  · exact ⟨rfl, fun _ => ⟨rfl, started⟩, other hph nofun, other hph nofun, other hph nofun⟩
  · have neither : ∀ {P : Prop}, c.phase = .off ∨ c.phase = .timing → P := fun h =>
      h.elim (other hph nofun) (other hph nofun)
    split_ifs with hn
    · exact ⟨rfl, neither, fun _ h => ⟨by rw [h]; rfl, rfl⟩, fun _ h => absurd hn h, other hph nofun⟩
    · exact ⟨rfl, neither, fun _ h => absurd h hn, fun _ _ => ⟨rfl, rfl⟩, other hph nofun⟩
  · exact ⟨rfl, fun h => h.elim (other hph nofun) (other hph nofun), other hph nofun, other hph nofun, fun _ => ⟨rfl, rfl⟩⟩

/-- POST NOTE at the target's queue (R140). -/
theorem exec_takePost {target : PortId} {code tag : Byte} (hi : exec i s = .next (s.takePost p target code tag)) :
    ((s.port target).notes.length < 8 → ∃ t, exec i s = .next t ∧
      (target ≠ p → t.port p = (s.port p).complete .none ∧
        t.port target = { s.port target with notes := (s.port target).notes ++ [⟨p, code, tag⟩] }) ∧
      (target = p → t.port p = { (s.port p).complete .none with notes := (s.port p).notes ++ [⟨p, code, tag⟩] }) ∧
      s.sameBut t [p, target] []) ∧
    (8 ≤ (s.port target).notes.length → s.endsCommand i p .noteFull) := by
  refine ⟨fun hn => ?_, fun hn => exec_ends hi (if_neg (Nat.not_lt.2 hn))⟩
  have hu : s.takePost p target code tag = (s.onPort target fun q => q.appendNote ⟨p, code, tag⟩).complete p .none := if_pos hn
  refine ⟨_, hi.trans (congrArg _ hu), fun hne => ⟨?_, ?_⟩, fun he => ?_, ?_⟩
  · rw [State.port_complete, if_pos rfl, State.port_onPort_ne _ _ hne.symm]
  · rw [State.port_complete, if_neg hne, State.port_onPort_self]
    rfl
  · subst he
    rw [State.port_complete, if_pos rfl, State.port_onPort_self]
    rfl
  · exact (s.sameBut_onPort target _).trans (State.sameBut_onPort _ p _) (by simp [or_comm]) (by simp)

end arrival

/-! ## The statement -/

/-- The fourteen terms whose command hands a request, with the command each writes. -/
theorem exec_handed (s : State) (p : PortId) :
    ∀ f ∈ [Instr.acquireShared p, Instr.acquireExclusive p, Instr.upgrade p, Instr.downgrade p, Instr.release p,
        Instr.renew p, Instr.queryLock p, Instr.defineLock p, Instr.undefineLock p, Instr.breakLock p, Instr.setRights p,
        Instr.setArbiter p, Instr.setScrub p, Instr.postNote p],
      ∃ c, ∀ h : Handing, exec (f h) s = .next (s.writeHanded p c h) := by
  intro f hf
  fin_cases hf <;> exact ⟨_, fun h => rfl⟩

/-- Settles O12: the arrival is the request taken in the state it finds, whatever the port holds. -/
theorem takenAtOnceIsOutstandingThenArrival : Obligations.TakenAtOnceIsOutstandingThenArrival := by
  refine ⟨?_, fun s p h => congrArg _ (s.arriveHanded_none p h), ?_, ?_, ?_⟩
  · intro s p f hf hs
    obtain ⟨c, hc⟩ := exec_handed s p f hf
    refine ⟨_, _, hc .outstanding, rfl, (hc .takenAtOnce).trans ?_⟩
    simp only [State.writeHanded, if_pos hs]
  · intro s p l limit q k held d closes ends granted waits
    refine ⟨fun x hx ho => ?_, fun ho => exec_takeUpgrade (exec_arrival ho)⟩
    obtain ⟨hi, hg, hq⟩ : exec (.handedRequestArrival p) s = .next (s.takeAcquire p l x.2.1 limit) ∧
        k.grantedAtOnce p x.2.1 = x.2.2 ∧ k.queueWith ⟨p, x.2.1, d⟩ = k.queue ++ [⟨p, x.2.1, d⟩] := by
      fin_cases hx
      · exact ⟨exec_arrival ho, Bool.eq_iff_iff.2 (by simp [Lock.grantedAtOnce]), rfl⟩
      · exact ⟨exec_arrival ho, rfl, rfl⟩
    rw [← hg, ← hq]
    exact exec_takeAcquire hi
  · intro s p l q k ends released
    refine ⟨fun x hx ho => ?_, fun ho => exec_takeRenew (exec_arrival ho), fun ho => ?_, fun f n e ho => ?_, fun ho => ?_,
      fun ho => ?_⟩
    · have hi := exec_arrival ho
      fin_cases hx
      · refine ⟨fun hd => exec_ends hi (State.takeRelease_notDefined hd), fun hd hh =>
          exec_ends hi (State.takeRelease_notHeld hd hh), fun hd hh => exec_reexamines (k := released) hi ?_⟩
        exact ((State.takeRelease_done hd hh).trans (by rw [Lock.dropHold_eq]))
      · exact ⟨fun hd => exec_ends hi (State.takeDowngrade_notDefined hd), fun hd hh =>
          exec_ends hi (State.takeDowngrade_notHeld hd (of_decide_eq_false hh)), fun hd hh =>
          exec_reexamines (k := { k with mode := .shared }) hi (State.takeDowngrade_done hd (of_decide_eq_true hh))⟩
    · have hi := exec_arrival ho
      refine ⟨fun hd => exec_ends hi (State.takeQuery_notDefined hd), fun hd hh => ?_, fun hd hh => ?_⟩
      · exact ⟨_, hi.trans (congrArg _ (State.takeQuery_offered hd hh)), s.port_onPort_self p _, s.sameBut_onPort p _⟩
      · refine ⟨_, hi.trans (congrArg _ (State.takeQuery_aborted hd hh)), ?_, s.sameBut_onPort p _⟩
        rw [State.port_onPort_self]
        rfl
    · have hi := exec_arrival ho
      exact ⟨fun hd => exec_ends hi (State.takeDefine_defined hd), fun hd hs => exec_ends hi (State.takeDefine_overlap hd hs),
        fun hd hs => exec_puts hi (State.takeDefine_done hd hs)⟩
    · have hi := exec_arrival ho
      exact ⟨fun hd => exec_ends hi (State.takeUndefine_notDefined hd), fun hd hidle =>
        exec_ends hi (State.takeUndefine_busy hd hidle), fun hd hidle => exec_puts hi (State.takeUndefine_done hd hidle)⟩
    · have hi := exec_arrival ho
      exact ⟨fun hd => exec_ends hi (State.takeBreak_notDefined hd), fun hd => ⟨_, hi, State.takeBreak_effect hd p⟩⟩
  · intro s p q
    refine ⟨fun target give hne ho => ?_, fun fixed ho => ?_, fun n ho => ?_, fun target code tag ho =>
      exec_takePost (exec_arrival ho)⟩
    · refine ⟨_, exec_arrival ho, State.port_onPort_self _ p _, ?_, fun j hj => ?_, s.sameBut_complete p .none⟩
      · exact (s.rights.holds_give hne give target).trans (if_pos rfl)
      · exact (s.rights.holds_give hne give j).trans (if_neg hj)
    · exact ⟨_, exec_arrival ho, State.port_onPort_self _ p _, rfl, s.sameBut_complete p .none⟩
    · obtain ⟨ht, hphases⟩ := s.takeSetScrub_effect n
      refine ⟨_, exec_arrival ho, ?_, ?_, hphases⟩
      · rw [State.takeRequest, ht]
        exact State.port_onPort_self _ p _
      · rw [State.takeRequest, ht]
        exact s.sameBut_complete p .none

end Sys2Proof.Machine
end

/-! # A port reset at the lock table -/

section
namespace Sys2Proof.Machine

/-- The record and the grants a port reset of `p` leaves of lock `l` (R34). -/
def State.parted (s : State) (m : Moment) (p : PortId) (l : LockId) : Lock × List PortId :=
  (s.lockAt l).withoutPort p (s.leaseDeadline m (s.lockAt l).lease)

/-- The port that is reset is not granted: its entry has left the queue. -/
theorem Lock.withoutPort_ports (k : Lock) (p : PortId) (lease : Option Tick) : p ∉ (k.withoutPort p lease).2 := by
  by_cases h : (k.holds p || k.waits p) = true
  · rw [Lock.withoutPort, if_pos h]
    intro hp
    obtain ⟨w, hw, rfl⟩ := List.mem_map.1 (Lock.admit_ports lease _ _ p hp)
    simp at hw
  · rw [Lock.withoutPort, if_neg h]
    exact List.not_mem_nil

/-- A port reset at one lock (R34). -/
theorem State.resetAtLock_effect (s : State) (m : Moment) (p : PortId) (l : LockId) :
    (State.resetAtLock m p s l).lockAt l = (s.parted m p l).1 ∧
      (∀ q, (State.resetAtLock m p s l).port q = if q ∈ (s.parted m p l).2 then (s.port q).complete .none else s.port q) ∧
      s.sameBut (State.resetAtLock m p s l) (s.parted m p l).2 [l] := by
  by_cases h : ((s.lockAt l).holds p || (s.lockAt l).waits p) = true
  · let k := if (s.lockAt l).holds p then (s.lockAt l).dropHold p else s.lockAt l
    have hk : k.queue = (s.lockAt l).queue ∧ k.lease = (s.lockAt l).lease := by
      simp only [k]
      split <;> exact ⟨rfl, rfl⟩
    have hr : s.parted m p l = Lock.admitFrom (s.leaseDeadline m (k.removeEntry p).lease) (k.removeEntry p).queue
        (k.removeEntry p) := by
      rw [State.parted, Lock.withoutPort, if_pos h, ← hk.1, ← hk.2]
      exact (Lock.admit_queue _ _ _ k).symm
    rw [hr, show State.resetAtLock m p s l = (s.setLock l (k.removeEntry p)).reexamine m l from if_pos h]
    exact s.reexamine_effect m l (k.removeEntry p)
  · rw [State.parted, Lock.withoutPort, if_neg h, show State.resetAtLock m p s l = s from if_neg h]
    exact ⟨rfl, fun q => (if_neg List.not_mem_nil).symm, fun _ _ => rfl, fun _ _ => rfl, State.keepsBehind.refl s⟩

/-- A port reset at several locks: each is parted as it stood, since a reset at one lock changes no other. -/
theorem State.resetAtLocks_effect (m : Moment) (p : PortId) (ls : List LockId) (hls : ls.Nodup) (s : State) :
    (∀ l, (ls.foldl (State.resetAtLock m p) s).lockAt l = if l ∈ ls then (s.parted m p l).1 else s.lockAt l) ∧
      (∀ q, (ls.foldl (State.resetAtLock m p) s).port q =
        if ∃ l ∈ ls, q ∈ (s.parted m p l).2 then (s.port q).complete .none else s.port q) := by
  induction ls generalizing s with
  | nil => exact ⟨fun l => by simp, fun q => by simp⟩
  | cons l ls ih =>
    obtain ⟨hl, hls⟩ := List.nodup_cons.1 hls
    obtain ⟨hlock, hport, hsame⟩ := s.resetAtLock_effect m p l
    obtain ⟨hlock', hport'⟩ := ih hls (State.resetAtLock m p s l)
    obtain ⟨-, hother, -, -, -, -, hnow, -⟩ := hsame
    have hne : ∀ i ∈ ls, i ≠ l := fun i hi e => hl (e ▸ hi)
    have hlater : ∀ i ∈ ls, (State.resetAtLock m p s l).parted m p i = s.parted m p i := fun i hi => by
      simp only [State.parted, hother i (by simpa using hne i hi), State.leaseDeadline, State.deadline, hnow]
    refine ⟨fun i => ?_, fun q => ?_⟩
    · rw [List.foldl_cons, hlock' i]
      by_cases hi : i ∈ ls
      · rw [if_pos hi, if_pos (List.mem_cons_of_mem _ hi), hlater i hi]
      · rw [if_neg hi]
        by_cases e : i = l
        · rw [e, hlock, if_pos List.mem_cons_self]
        · rw [hother i (by simpa using e), if_neg (by simp [e, hi])]
    · have hgrants : (∃ i ∈ ls, q ∈ ((State.resetAtLock m p s l).parted m p i).2) ↔ ∃ i ∈ ls, q ∈ (s.parted m p i).2 :=
        exists_congr fun i => and_congr_right fun hi => by rw [hlater i hi]
      rw [List.foldl_cons, hport' q, hport q]
      simp only [hgrants, List.exists_mem_cons_iff]
      by_cases h₁ : q ∈ (s.parted m p l).2 <;> by_cases h₂ : ∃ i ∈ ls, q ∈ (s.parted m p i).2 <;>
        simp only [h₁, h₂, or_self, or_true, true_or, if_true, if_false, Port.complete_complete]

/-- The effect of a port reset at the port units and the lock table (R34, R112, R113). -/
theorem State.portResetEffect_resetOf (s : State) (p : PortId) :
    s.resetOf (s.portResetEffect .betweenTicks p) p ∧ s.sameBut (s.portResetEffect .betweenTicks p) allPorts allLocks := by
  have hls := nodup_allLocks
  obtain ⟨hlock, hport⟩ := State.resetAtLocks_effect .betweenTicks p allLocks hls (s.onPort p fun _ => Port.reset)
  have hparted : ∀ l, (s.onPort p fun _ => Port.reset).parted .betweenTicks p l = s.parted .betweenTicks p l := fun _ => rfl
  simp only [mem_allLocks, if_true, true_and, hparted] at hlock hport
  refine ⟨⟨?_, hlock, fun q hq hg => ?_, fun q hq hg => ?_⟩, fun q hq => absurd (mem_allPorts q) hq,
    fun l hl => absurd (mem_allLocks l) hl, s.portResetEffect_rest .betweenTicks p⟩
  · refine (hport p).trans ((if_neg fun ⟨l, hl⟩ => Lock.withoutPort_ports _ p _ hl).trans ?_)
    exact s.port_onPort_self p _
  · exact (hport q).trans ((if_pos hg).trans (by rw [State.port_onPort_ne _ _ hq]))
  · exact (hport q).trans ((if_neg fun ⟨l, hl⟩ => hg l hl).trans (s.port_onPort_ne _ hq))

/-- Settles O33: the reset takes effect where nothing of the port is at the pool, and is held elsewhere. -/
theorem portReset : Obligations.PortReset := by
  refine ⟨fun s p v hv => ?_, fun s p => ⟨fun hf hr => ?_, fun h => ?_⟩⟩
  · have hi : exec (.portReset p v) s = .next (s.takePortReset p) := congrArg _ (if_pos hv)
    have held : ∀ f : Port → Port, s.takePortReset p = s.onPort p f →
        ∃ t, exec (.portReset p v) s = .next t ∧ t.port p = f (s.port p) ∧ s.sameBut t [p] [] := fun _ h =>
      ⟨_, hi.trans (congrArg _ h), s.port_onPort_self p _, s.sameBut_onPort p _⟩
    refine ⟨fun ha he => ?_, fun he hf => held (fun q => { q with state := .aborting, held := some .portReset }) ?_,
      fun he hf hr => held (fun q => { q with held := some .portReset }) ?_,
      fun ha => held (fun q => { q with held := some .portReset }) ?_⟩
    · have heffect : s.takePortReset p = s.portResetEffect .betweenTicks p := by
        simp only [State.takePortReset]
        split
        case h_5 hs => simp [he hs]
        case h_6 hs => exact absurd hs ha
        all_goals rfl
      rw [hi, heffect]
      exact ⟨_, rfl, s.portResetEffect_resetOf p⟩
    · simp only [State.takePortReset, he, hf, if_true]
    · simp only [State.takePortReset, he, hf, hr, if_true]
      rfl
    · simp only [State.takePortReset, ha]
  · refine ⟨_, congrArg Host.Outcome.next (if_neg ?_), s.portResetEffect_resetOf p⟩
    simp [hf, hr]
  · exact congrArg Host.Outcome.next (if_pos (Bool.or_eq_true_iff.2 h))

end Sys2Proof.Machine
end

/-! # What alone changes the rights and the coverage of blocks -/

section
namespace Sys2Proof.Machine

/-- What a lock covers and for how long it is held: its definition, range and lease length (R18, R20). -/
def Lock.coverage (k : Lock) : Bool × BlockNo × Byte × Byte := (k.defined, k.first, k.count, k.lease)

/-- The rights and the coverage of every lock are as before. -/
abbrev State.keepsSetup (s t : State) : Prop :=
  t.rights = s.rights ∧ ∀ l, (t.lockAt l).coverage = (s.lockAt l).coverage

theorem State.keepsSetup.refl (s : State) : s.keepsSetup s := ⟨rfl, fun _ => rfl⟩

theorem State.keepsSetup.trans {s t u : State} (h : s.keepsSetup t) (h' : t.keepsSetup u) : s.keepsSetup u :=
  ⟨h'.1.trans h.1, fun l => (h'.2 l).trans (h.2 l)⟩

theorem State.keepsSetup_of_eq {s t : State} (hr : t.rights = s.rights) (hl : t.locks = s.locks) : s.keepsSetup t :=
  ⟨hr, fun l => by simp only [State.lockAt, hl]⟩

theorem State.keepsSetup.of_eq {s s' t : State} (h : s'.keepsSetup t) (hr : s'.rights = s.rights) (hl : s'.locks = s.locks) :
    s.keepsSetup t :=
  (State.keepsSetup_of_eq hr hl).trans h

/-! ## The operations on lock records -/

section table

variable (s : State) (p : PortId) (l : LockId) (m : Moment)

theorem Lock.admit_coverage (lease : Option Tick) (ws : List Waiter) (k : Lock) :
    (Lock.admitFrom lease ws k).1.coverage = k.coverage := by
  obtain ⟨hd, hf, hc, hl⟩ := Lock.admit_range lease ws k
  simp only [Lock.coverage, hd, hf, hc, hl]

theorem State.keepsSetup_onPort (f : Port → Port) : s.keepsSetup (s.onPort p f) := .refl s

theorem State.keepsSetup_setLock {k : Lock} (hk : k.coverage = (s.lockAt l).coverage) : s.keepsSetup (s.setLock l k) := by
  refine ⟨rfl, fun i => ?_⟩
  rw [State.lockAt_setLock]
  split
  · rename_i e; rw [e, hk]
  · rfl

theorem State.keepsSetup_reexamine : s.keepsSetup (s.reexamine m l) := by
  obtain ⟨hlock, -, -, -, -, hrights, -⟩ := s.reexamine_spec m l
  refine ⟨hrights, fun i => ?_⟩
  rw [hlock]
  split
  · rename_i e; rw [e, Lock.admit_coverage]
  · rfl

/-- A record of the same coverage is put, ports change, and the queue is re-examined. -/
theorem State.keepsSetup_put {k : Lock} (hk : k.coverage = (s.lockAt l).coverage) {u : State} (hr : u.rights = s.rights)
    (hu : u.locks = (s.setLock l k).locks) : s.keepsSetup (u.reexamine m l) :=
  ((s.keepsSetup_setLock l hk).trans (State.keepsSetup_of_eq hr hu)).trans (u.keepsSetup_reexamine l m)

theorem Lock.withoutPort_coverage (k : Lock) (lease : Option Tick) : (k.withoutPort p lease).1.coverage = k.coverage := by
  by_cases h : (k.holds p || k.waits p) = true
  · rw [Lock.withoutPort, if_pos h, Lock.admit_coverage]
    split <;> rfl
  · rw [Lock.withoutPort, if_neg h]

theorem State.keepsSetup_portResetEffect : s.keepsSetup (s.portResetEffect m p) := by
  obtain ⟨hlock, -⟩ := State.resetAtLocks_effect m p allLocks nodup_allLocks (s.onPort p fun _ => Port.reset)
  obtain ⟨-, -, -, hrights, -⟩ := s.portResetEffect_rest m p
  refine ⟨hrights, fun l => ?_⟩
  rw [State.portResetEffect, State.resetAtTable, hlock, if_pos (mem_allLocks l)]
  exact Lock.withoutPort_coverage p _ _

theorem State.keepsSetup_waitOrRefuse (w : Wanted) (limit : Byte) : s.keepsSetup (s.waitOrRefuse m l p w limit) := by
  rcases s.waitOrRefuse_cases m l p w limit with ⟨-, h⟩ | ⟨-, -, h⟩ | ⟨-, -, h⟩ <;> rw [h]
  · exact .refl s
  · exact .refl s
  · rw [State.placeEntry_eq]
    exact s.keepsSetup_setLock l rfl

/-! ### The requests -/

theorem State.keepsSetup_takeAcquire (w : Wanted) (limit : Byte) : s.keepsSetup (s.takeAcquire p l w limit) := by
  simp only [State.takeAcquire]
  split_ifs
  · exact .refl s
  · exact .refl s
  · exact s.keepsSetup_setLock l rfl
  · exact s.keepsSetup_waitOrRefuse p l _ w limit

theorem State.keepsSetup_takeUpgrade (limit : Byte) : s.keepsSetup (s.takeUpgrade p l limit) := by
  simp only [State.takeUpgrade]
  split_ifs
  · exact .refl s
  · exact .refl s
  · exact .refl s
  · exact s.keepsSetup_setLock l rfl
  · exact .refl s
  · exact s.keepsSetup_waitOrRefuse p l _ .upgrade limit

theorem State.keepsSetup_takeDowngrade : s.keepsSetup (s.takeDowngrade p l) := by
  simp only [State.takeDowngrade]
  split_ifs
  · exact .refl s
  · exact .refl s
  · exact s.keepsSetup_put l _ (k := { s.lockAt l with mode := .shared }) rfl rfl rfl

theorem State.keepsSetup_takeRelease : s.keepsSetup (s.takeRelease p l) := by
  simp only [State.takeRelease]
  split_ifs
  · exact .refl s
  · exact .refl s
  · exact s.keepsSetup_put l _ (k := (s.lockAt l).dropHold p) rfl rfl rfl

theorem State.keepsSetup_takeRenew : s.keepsSetup (s.takeRenew p l) := by
  simp only [State.takeRenew]
  split_ifs
  · exact .refl s
  · exact .refl s
  · exact .refl s
  · exact s.keepsSetup_setLock l rfl

theorem State.keepsSetup_takeQuery : s.keepsSetup (s.takeQuery p l) := by
  simp only [State.takeQuery]
  split_ifs <;> exact .refl s

theorem State.keepsSetup_takeBreak : s.keepsSetup (s.takeBreak p l) := by
  cases hd : (s.lockAt l).defined with
  | false => rw [State.takeBreak_notDefined hd]; exact .refl s
  | true =>
    obtain ⟨hlock, -, -, -, -, -, hother, -, -, -, hrights, -⟩ := State.takeBreak_effect hd p
    refine ⟨hrights, fun i => ?_⟩
    by_cases e : i = l
    · rw [e, hlock, Lock.admit_coverage]; rfl
    · rw [hother i (by simpa using e)]

theorem State.keepsSetup_takePost (target : PortId) (code tag : Byte) : s.keepsSetup (s.takePost p target code tag) := by
  simp only [State.takePost]
  split_ifs <;> exact .refl s

/-- DEFINE LOCK and UNDEFINE LOCK touch the record of their lock, and no right (R25, R27). -/
theorem State.takeDefine_setup (first : BlockNo) (count lease : Byte) :
    (s.takeDefine p l first count lease).rights = s.rights ∧
      ∀ i, i ≠ l → (s.takeDefine p l first count lease).lockAt i = s.lockAt i := by
  simp only [State.takeDefine]
  split_ifs
  · exact ⟨rfl, fun _ _ => rfl⟩
  · exact ⟨rfl, fun _ _ => rfl⟩
  · exact ⟨rfl, fun i hi => s.lockAt_setLock_ne _ hi⟩

theorem State.takeUndefine_setup :
    (s.takeUndefine p l).rights = s.rights ∧ ∀ i, i ≠ l → (s.takeUndefine p l).lockAt i = s.lockAt i := by
  simp only [State.takeUndefine]
  split_ifs
  · exact ⟨rfl, fun _ _ => rfl⟩
  · exact ⟨rfl, fun _ _ => rfl⟩
  · exact ⟨rfl, fun i hi => s.lockAt_setLock_ne _ hi⟩

/-- The requests that change rights or coverage: SET RIGHTS, DEFINE LOCK, UNDEFINE LOCK. -/
def HandedRequest.setsUp : HandedRequest → Bool
  | .setRights _ _ | .defineLock _ _ _ _ | .undefineLock _ => true
  | .acquireShared _ _ | .acquireExclusive _ _ | .upgrade _ _ | .downgrade _ | .release _ | .renew _ | .queryLock _
  | .breakLock _ | .setArbiter _ | .setScrub _ | .postNote _ _ _ => false

theorem State.keepsSetup_takeRequest {r : HandedRequest} (h : r.setsUp = false) : s.keepsSetup (s.takeRequest p r) := by
  cases r with
  | setRights | defineLock | undefineLock => cases h
  | acquireShared l limit => exact s.keepsSetup_takeAcquire p l .shared limit
  | acquireExclusive l limit => exact s.keepsSetup_takeAcquire p l .exclusive limit
  | upgrade l limit => exact s.keepsSetup_takeUpgrade p l limit
  | downgrade l => exact s.keepsSetup_takeDowngrade p l
  | release l => exact s.keepsSetup_takeRelease p l
  | renew l => exact s.keepsSetup_takeRenew p l
  | queryLock l => exact s.keepsSetup_takeQuery p l
  | breakLock l => exact s.keepsSetup_takeBreak p l
  | setArbiter fixed => exact .refl s
  | setScrub n =>
    obtain ⟨ht, -⟩ := s.takeSetScrub_effect n
    rw [State.takeRequest, ht]
    exact .refl s
  | postNote t code tag => exact s.keepsSetup_takePost p t code tag

/-! ### Deadlines and withdrawals -/

theorem State.keepsSetup_expireLease : s.keepsSetup (s.expireLease l p) := by
  simp only [State.expireLease]
  split
  · exact .refl s
  · split_ifs
    · exact s.keepsSetup_put l _ (k := ((s.lockAt l).dropHold p).removeEntry p) rfl rfl rfl
    · exact s.keepsSetup_put l _ (k := (s.lockAt l).dropHold p) rfl rfl rfl
    · exact .refl s

theorem State.keepsSetup_timeoutWait : s.keepsSetup (s.timeoutWait l p) := by
  simp only [State.timeoutWait]
  split
  · exact .refl s
  · split_ifs
    · exact s.keepsSetup_put l _ (k := (s.lockAt l).removeEntry p) rfl rfl rfl
    · exact .refl s

theorem State.keepsSetup_withdrawEntry : s.keepsSetup (s.withdrawEntry p) := by
  simp only [State.withdrawEntry]
  split_ifs
  · split
    · exact .refl s
    · exact s.keepsSetup_put _ _ (k := (s.lockAt _).removeEntry p) rfl rfl rfl
  · exact .refl s

theorem State.keepsSetup_withdrawHanded : s.keepsSetup (s.withdrawHanded p) := by
  simp only [State.withdrawHanded]
  split
  · exact .refl s
  · exact s.keepsSetup_withdrawEntry p

end table

/-! ## Writes of a window -/

section window

variable (s : State) (p : PortId)

theorem State.keepsSetup_beginCommand (c : Command) : s.keepsSetup (s.beginCommand p c) := by
  cases c <;> exact .refl s

theorem State.keepsSetup_acceptCommand (c : Option Command) : s.keepsSetup (s.acceptCommand p c) := by
  rcases s.acceptCommand_cases p c with ⟨-, h⟩ | ⟨d, -, -, h⟩ | ⟨d, -, -, -, h⟩ | ⟨d, -, -, -, h⟩ <;> rw [h]
  · exact .refl s
  · exact .refl s
  · exact .refl s
  · exact State.keepsSetup_beginCommand (s.onPort p Port.accept) p d

theorem State.keepsSetup_writeCommand (c : Option Command) : s.keepsSetup (s.writeCommand p c) := by
  simp only [State.writeCommand]
  split_ifs
  · exact s.keepsSetup_acceptCommand p c
  · exact .refl s

variable {s p}

/-- A command that hands a request changes no setup, unless it is accepted and its request taken at once. -/
theorem State.writeHanded_setup {c : Command} {r : HandedRequest} (hq : (s.port p).handedRequest c = some r) (h : Handing) :
    s.keepsSetup (s.writeHanded p c h) ∨
      (h = .takenAtOnce ∧ s.hasRight p c = true ∧ (s.port p).argumentsInRange c = true ∧
        s.writeHanded p c h = (s.hand p c r).takeRequest p r) := by
  by_cases hs : (s.port p).state = .ready
  · simp only [State.writeHanded, if_pos hs]
    cases h with
    | outstanding => exact .inl (s.keepsSetup_acceptCommand p _)
    | takenAtOnce =>
      have refused : ∀ e, ((s.onPort p Port.accept).complete p e).arriveHanded p = (s.onPort p Port.accept).complete p e :=
        fun e => State.arriveHanded_none _ p fun r => by
          rw [State.port_complete, if_pos rfl]
          exact nofun
      rcases s.acceptCommand_cases p (some c) with ⟨hc, -⟩ | ⟨d, -, -, h⟩ | ⟨d, -, -, -, h⟩ | ⟨d, hc, hr, ha, -⟩
      · cases hc
      · rw [h, refused]; exact .inl (.refl s)
      · rw [h, refused]; exact .inl (.refl s)
      · cases hc
        refine .inr ⟨rfl, hr, ha, ?_⟩
        rw [State.acceptCommand_hand hr ha hq]
        exact State.arriveHanded_taken (by rw [State.port_hand]; rfl)
  · simp only [State.writeHanded, if_neg hs]
    exact .inl (.refl s)

theorem State.keepsSetup_writeHanded {c : Command} {r : HandedRequest} (hq : (s.port p).handedRequest c = some r)
    (hr : r.setsUp = false) (h : Handing) : s.keepsSetup (s.writeHanded p c h) := by
  rcases State.writeHanded_setup hq h with hk | ⟨-, -, -, e⟩
  · exact hk
  · rw [e]
    exact (State.keepsSetup_onPort s p _).trans (State.keepsSetup_takeRequest _ p hr)

variable (s p)

theorem State.keepsSetup_takeAbort : s.keepsSetup (s.takeAbort p) := by
  simp only [State.takeAbort]
  split
  case h_5 => split_ifs <;> exact .refl s
  all_goals exact .refl s

theorem State.keepsSetup_takePortReset : s.keepsSetup (s.takePortReset p) := by
  simp only [State.takePortReset]
  split
  case h_5 =>
    split_ifs
    · exact .refl s
    · exact .refl s
    · exact s.keepsSetup_portResetEffect p _
  case h_6 => exact .refl s
  all_goals exact s.keepsSetup_portResetEffect p _

theorem State.keepsSetup_writeControl (v : Byte) : s.keepsSetup (s.writeControl p v) := by
  simp only [State.writeControl]
  split_ifs
  · exact s.keepsSetup_takePortReset p
  · exact s.keepsSetup_takeAbort p
  · exact .refl s

theorem State.keepsSetup_writeWindow (o : Fin 16) (v : Byte) : s.keepsSetup (s.writeWindow p o v) := by
  simp only [State.writeWindow]
  split
  case h_2 => exact s.keepsSetup_writeCommand p _
  case h_3 => exact s.keepsSetup_writeControl p v
  all_goals exact .refl s

end window

/-! ## Events at the pool -/

section pool

variable (s : State) (p : PortId) (m : Moment)

theorem State.keepsSetup_refuseGrant : s.keepsSetup (s.refuseGrant m p) := by
  simp only [State.refuseGrant]
  split_ifs
  · exact s.keepsSetup_portResetEffect p m
  · exact .refl s

theorem State.keepsSetup_grantPort : s.keepsSetup (s.grantPort m p) := by
  cases hw : s.arbiter.waiting[p] with
  | none => simp only [State.grantPort, hw]; exact .refl s
  | some r =>
    rcases s.grantPort_cases m p r hw with ⟨-, h⟩ | ⟨-, h⟩ <;> rw [h]
    · exact .refl s
    · exact (State.keepsSetup_refuseGrant _ p m).of_eq rfl rfl

theorem State.keepsSetup_grantScrub : s.keepsSetup (s.grantScrub m) := by
  simp only [State.grantScrub]
  split
  · exact .refl s
  · split <;> exact .refl s

theorem State.keepsSetup_grantOne : s.keepsSetup (s.grantOne m) := by
  simp only [State.grantOne]
  split
  · exact .refl s
  · split
    · exact .refl s
    · exact s.keepsSetup_grantPort _ m
    · exact s.keepsSetup_grantScrub m

theorem State.keepsSetup_grantAll : s.keepsSetup (s.grantAll m) := by
  have one := fun t : State => t.keepsSetup_grantOne m
  exact ((((one s).trans (one _)).trans (one _)).trans (one _)).trans (one _)

theorem State.keepsSetup_deliver (x : Transfer) : s.keepsSetup (s.deliver m p x) := by
  simp only [State.deliver]
  split_ifs
  · exact s.keepsSetup_portResetEffect p m
  · exact .refl s
  · exact .refl s

theorem State.keepsSetup_endOf (kind : TransferKind) : s.keepsSetup (s.endOf kind) := by
  simp only [State.endOf]
  split
  · exact .refl s
  · split_ifs
    · refine State.keepsSetup.trans ?_ (State.keepsSetup_grantAll _ _)
      split
      · exact (State.keepsSetup_deliver _ _ _ _).of_eq rfl rfl
      · exact .refl s
    · exact .refl s

theorem State.keepsSetup_arrivePool : s.keepsSetup (s.arrivePool p) := by
  simp only [State.arrivePool]
  split
  · exact (State.keepsSetup_grantAll _ _).of_eq rfl rfl
  · exact .refl s

theorem State.keepsSetup_withdrawPool : s.keepsSetup (s.withdrawPool p) := by
  simp only [State.withdrawPool]
  split_ifs
  · split
    · exact .refl s
    · exact .refl s
    · exact (State.keepsSetup_portResetEffect _ p _).of_eq rfl rfl
  · exact .refl s

theorem State.keepsSetup_withdrawScrubRequest : s.keepsSetup s.withdrawScrubRequest := by
  simp only [State.withdrawScrubRequest]
  split_ifs <;> exact .refl s

theorem State.keepsSetup_requestScrub : s.keepsSetup s.requestScrub := by
  simp only [State.requestScrub]
  split_ifs
  · exact (State.keepsSetup_grantAll _ _).of_eq rfl rfl
  · exact .refl s

end pool

/-! ## Every command -/

theorem Port.lockArgument_val {q : Port} (h : q.lock.toNat ≤ 31) : q.lock.toNat = q.lockArgument.val :=
  (Nat.mod_eq_of_lt (Nat.lt_succ_of_le h)).symm

/-- Command `i` is the event at which the configuration takes a SET RIGHTS (R155; log 4). -/
abbrev State.takesRights (s : State) (i : Instr) : Prop :=
  i = .setRights 0 .takenAtOnce ∨ ∃ (p target : PortId) (give : Bool),
    i = .handedRequestArrival p ∧ (s.port p).outgoing = some (.handed (.setRights target give))

/-- Command `i` is the event at which the table takes a DEFINE LOCK or UNDEFINE LOCK of lock `l` (R25, R27; log 4). -/
abbrev State.takesCoverage (s : State) (i : Instr) (l : LockId) : Prop :=
  (∃ p : PortId, (i = .defineLock p .takenAtOnce ∨ i = .undefineLock p .takenAtOnce) ∧ (s.port p).lock.toNat = l.val) ∨
    ∃ p : PortId, i = .handedRequestArrival p ∧ ((s.port p).outgoing = some (.handed (.undefineLock l)) ∨
      ∃ (f : BlockNo) (n e : Byte), (s.port p).outgoing = some (.handed (.defineLock l f n e)))

/-- What a command can do to the rights and the coverage of locks: nothing, or it is a reset, or a SET RIGHTS, a DEFINE LOCK or
an UNDEFINE LOCK is taken. -/
theorem exec_setup_cases {i : Instr} {s t : State} (h : exec i s = .next t) :
    s.keepsSetup t ∨ (i = .powerOn ∨ i = .deviceReset) ∨ (s.takesRights i ∧ t.locks = s.locks) ∨
      ∃ l, s.takesCoverage i l ∧ t.rights = s.rights ∧ ∀ m, m ≠ l → t.lockAt m = s.lockAt m := by
  cases i <;> cases h
  case powerOn => exact .inr (.inl (.inl rfl))
  case deviceReset => exact .inr (.inl (.inr rfl))
  case readBlocks p | writeBlocks p | copyBlocks p | zeroBlocks p | verifyBlocks p | readFaultList p | identify p =>
    exact .inl (s.keepsSetup_writeCommand p _)
  case badCommand p code => exact .inl (s.keepsSetup_writeCommand p _)
  case acquireShared p h | acquireExclusive p h | upgrade p h | downgrade p h | release p h | renew p h | queryLock p h
      | breakLock p h | setArbiter p h | setScrub p h | postNote p h =>
    exact .inl (State.keepsSetup_writeHanded rfl rfl h)
  case setRights p h =>
    refine (State.writeHanded_setup rfl h).imp_right fun ⟨hh, hr, _, ht⟩ => .inr (.inl ⟨.inl ?_, by rw [ht]; rfl⟩)
    rw [hh, show p = 0 from of_decide_eq_true hr]
  case defineLock p h =>
    refine (State.writeHanded_setup rfl h).imp_right fun ⟨hh, _, ha, ht⟩ => .inr (.inr ⟨_, .inl ⟨p, .inl (by rw [hh]),
      Port.lockArgument_val (of_decide_eq_true (Bool.and_eq_true_iff.1 ha).1)⟩, ?_⟩)
    rw [ht]
    exact State.takeDefine_setup _ p _ _ _ _
  case undefineLock p h =>
    refine (State.writeHanded_setup rfl h).imp_right fun ⟨hh, _, ha, ht⟩ => .inr (.inr ⟨_, .inl ⟨p, .inr (by rw [hh]),
      Port.lockArgument_val (of_decide_eq_true ha)⟩, ?_⟩)
    rw [ht]
    exact State.takeUndefine_setup _ p _
  case abort p v | portReset p v => exact .inl (s.keepsSetup_writeControl p v)
  case dataRead | dataWrite | statusRead | notePop | lostWrite | irqenWrite | tick | storedBitDisturbance => exact .inl (.refl s)
  case registerWrite p o v => exact .inl (s.keepsSetup_writeWindow p o v)
  case leaseExpiry l p => exact .inl (s.keepsSetup_expireLease p l)
  case waitTimeout l p => exact .inl (s.keepsSetup_timeoutWait p l)
  case scrubRequest => exact .inl s.keepsSetup_requestScrub
  case poolGrant => exact .inl (s.keepsSetup_grantAll _)
  case loadEnd | storeEnd | zeroEnd | copyEnd | verifyEnd | scrubEnd => exact .inl (s.keepsSetup_endOf _)
  case lockEntryWithdrawal p => exact .inl (s.keepsSetup_withdrawEntry p)
  case poolRequestWithdrawal r =>
    cases r with
    | port p => exact .inl (s.keepsSetup_withdrawPool p)
    | scrubber => exact .inl s.keepsSetup_withdrawScrubRequest
  case tablePortReset p =>
    refine .inl ?_
    split_ifs
    · exact .refl s
    · exact s.keepsSetup_portResetEffect p _
  case handedRequestArrival p =>
    simp only [State.arriveHanded]
    split
    · rename_i r ho
      cases r with
      | setRights target give => exact .inr (.inr (.inl ⟨.inr ⟨p, target, give, rfl, ho⟩, rfl⟩))
      | defineLock l f n e => exact .inr (.inr (.inr ⟨l, .inr ⟨p, rfl, .inr ⟨f, n, e, ho⟩⟩, s.takeDefine_setup p l f n e⟩))
      | undefineLock l => exact .inr (.inr (.inr ⟨l, .inr ⟨p, rfl, .inl ho⟩, s.takeUndefine_setup p l⟩))
      | _ => exact .inl (s.keepsSetup_takeRequest p rfl)
    · exact .inl (.refl s)
  case handedRequestWithdrawal p => exact .inl (s.keepsSetup_withdrawHanded p)
  case poolRequestArrival p => exact .inl (s.keepsSetup_arrivePool p)

/-- Settles O54: any other command keeps the rights and the coverage of every lock, by the cases of `exec_setup_cases`. -/
theorem rightsAndCoverageChangeOnlyBy : Obligations.RightsAndCoverageChangeOnlyBy := by
  intro i s t h hp hd
  rcases exec_setup_cases h with ⟨hrights, hcover⟩ | hreset | ⟨htakes, hlocks⟩ | ⟨l, htakes, hrights, hother⟩
  · exact ⟨fun hn => absurd hrights hn, fun l hn => absurd (hcover l) hn⟩
  · exact absurd hreset (not_or.2 ⟨hp, hd⟩)
  · exact ⟨fun _ => htakes, fun l hn => absurd (by simp only [State.lockAt, hlocks]) hn⟩
  · refine ⟨fun hn => absurd hrights hn, fun m hn => ?_⟩
    by_cases e : m = l
    · exact e ▸ htakes
    · exact absurd (by rw [hother m e]) hn

end Sys2Proof.Machine
end

/-! # What a re-examination grants -/

section
namespace Sys2Proof.Machine

/-! ## One equation for each decision at the head of a queue -/

section head

variable {lease : Option Tick} {k : Lock} {w : Waiter} {ws : List Waiter}

theorem Lock.admitFrom_refused (hg : k.grantable w = false) :
    Lock.admitFrom lease (w :: ws) k = ({ k with queue := w :: ws }, []) := by
  simp [Lock.admitFrom, hg]

theorem Lock.admitFrom_shared (hg : k.grantable w = true) (hw : w.want = .shared) :
    Lock.admitFrom lease (w :: ws) k =
      ((Lock.admitFrom lease ws (k.grant w.port w.want lease)).1,
        w.port :: (Lock.admitFrom lease ws (k.grant w.port w.want lease)).2) := by
  simp [Lock.admitFrom, hg, hw]

theorem Lock.admitFrom_last (hg : k.grantable w = true) (hw : w.want ≠ .shared) :
    Lock.admitFrom lease (w :: ws) k = ({ k.grant w.port w.want lease with queue := ws }, [w.port]) := by
  cases h : w.want with
  | shared => exact absurd h hw
  | exclusive | upgrade => simp [Lock.admitFrom, hg, h]

end head

/-! ## The part of a queue that is granted -/

/-- Re-examination of the queue `ws` of record `k` grants the waiters `front`, in this order, and answers `r` (R38, R39). -/
structure Lock.GrantsFront (lease : Option Tick) (ws : List Waiter) (k : Lock) (r : Lock × List PortId)
    (front : List Waiter) : Prop where
  queue : ws = front ++ r.1.queue
  ports : r.2 = front.map Waiter.port
  holders : ∀ p : PortId, r.1.holders[p] = if p ∈ r.2 then some ⟨lease⟩ else k.holders[p]
  mode_kept : front = [] → r.1.mode = k.mode
  mode_granted : ∀ w : Waiter, front.getLast? = some w → r.1.mode = w.want.mode
  shared : ∀ w ∈ front.dropLast, w.want = .shared
  grantable : ∀ (i : Nat) (w : Waiter), front[i]? = some w → (Lock.admitFrom lease (front.take i) k).1.grantable w = true
  stops : (∀ w ∈ front, w.want = .shared) → ∀ w : Waiter, r.1.queue.head? = some w → r.1.grantable w = false

namespace Lock.GrantsFront

variable {lease : Option Tick} {k : Lock} {w : Waiter} {ws : List Waiter}

/-- Nothing is granted where the queue is empty or its head not grantable. -/
theorem nothing (h : ∀ w : Waiter, ws.head? = some w → k.grantable w = false) :
    Lock.GrantsFront lease ws k ({ k with queue := ws }, []) [] where
  queue := rfl
  ports := rfl
  holders p := by simp
  mode_kept _ := rfl
  mode_granted w hw := by simp at hw
  shared w hw := by simp at hw
  grantable i w hw := by simp at hw
  stops _ := h

/-- A head that wants EXCLUSIVE or UPGRADE is the last one granted. -/
theorem last (hg : k.grantable w = true) (hw : w.want ≠ .shared) :
    Lock.GrantsFront lease (w :: ws) k ({ k.grant w.port w.want lease with queue := ws }, [w.port]) [w] where
  queue := rfl
  ports := rfl
  holders p := by simp only [Lock.grant, getElem_set_port, List.mem_singleton]
  mode_kept h := by simp at h
  mode_granted x hx := by cases hx; rfl
  shared x hx := by simp at hx
  grantable i x hx := by
    obtain ⟨rfl, rfl⟩ : i = 0 ∧ w = x := by simpa [List.getElem?_singleton] using hx
    exact hg
  stops h := absurd (h w (List.mem_singleton_self w)) hw

/-- A grantable head that wants SHARED is granted before what the queue behind it grants. -/
theorem cons {r : Lock × List PortId} {front : List Waiter} (hg : k.grantable w = true) (hw : w.want = .shared)
    (h : Lock.GrantsFront lease ws (k.grant w.port w.want lease) r front) :
    Lock.GrantsFront lease (w :: ws) k (r.1, w.port :: r.2) (w :: front) where
  queue := by rw [List.cons_append, ← h.queue]
  ports := by rw [h.ports, List.map_cons]
  holders p := by
    rw [h.holders, Lock.grant, getElem_set_port]
    by_cases hr : p ∈ r.2 <;> by_cases hp : p = w.port <;> simp [hr, hp]
  mode_kept hn := by simp at hn
  mode_granted x hx := by
    cases front with
    | nil => cases hx; exact h.mode_kept rfl
    | cons y front => exact h.mode_granted x (by rwa [List.getLast?_cons_cons] at hx)
  shared x hx := by
    cases front with
    | nil => simp at hx
    | cons y front =>
      rcases List.mem_cons.1 hx with rfl | hx
      · exact hw
      · exact h.shared x hx
  grantable i x hx := by
    cases i with
    | zero => cases hx; exact hg
    | succ i =>
      rw [List.take_succ_cons, Lock.admitFrom_shared hg hw]
      exact h.grantable i x hx
  stops hs := h.stops fun x hx => hs x (List.mem_cons_of_mem w hx)

end Lock.GrantsFront

/-- Re-examination of a queue grants a front part of it (R38, R39). -/
theorem Lock.admitFrom_grantsFront (lease : Option Tick) (ws : List Waiter) (k : Lock) :
    ∃ front, Lock.GrantsFront lease ws k (Lock.admitFrom lease ws k) front := by
  induction ws generalizing k with
  | nil => exact ⟨[], .nothing (by simp)⟩
  | cons w ws ih =>
    cases hg : k.grantable w with
    | false =>
      rw [Lock.admitFrom_refused hg]
      exact ⟨[], .nothing fun x hx => by cases hx; exact hg⟩
    | true =>
      by_cases hw : w.want = .shared
      · obtain ⟨front, hf⟩ := ih (k.grant w.port w.want lease)
        rw [Lock.admitFrom_shared hg hw]
        exact ⟨w :: front, hf.cons hg hw⟩
      · rw [Lock.admitFrom_last hg hw]
        exact ⟨[w], .last hg hw⟩

/-- Settles O52: the front part granted is found by induction on the queue, one case for each decision at its head. -/
theorem reexamination : Obligations.Reexamination := by
  refine ⟨fun k w => ?_, fun lease queue k => ?_⟩
  · rw [Lock.grantable_iff]
    refine ⟨fun h => ?_, fun h => ?_, fun h => ?_⟩ <;> rw [h]
  · obtain ⟨front, h⟩ := Lock.admitFrom_grantsFront lease queue k
    exact ⟨front, h.queue, h.ports, h.holders, Lock.admit_range lease queue k, h.mode_kept, h.mode_granted, h.shared,
      h.grantable, h.stops⟩

end Sys2Proof.Machine
end

/-! # Requests that are granted at once, or wait -/

section
namespace Sys2Proof.Machine

section answers

variable {s u : State} {p : PortId} {c : Command} {r : HandedRequest} {i : Instr} {l : LockId}

/-- A command whose request waits is in WAITLOCK with its entry in the queue, unless the wait is refused (R44, R48, R54). -/
theorem exec_answered_waits {w : Wanted} {limit : Byte} (hi : exec i s = .next u)
    (hu : u = (s.hand p c r).waitOrRefuse .betweenTicks l p w limit) (hl : limit ≠ 0) :
    let closes := ∃ h : PortId, h ≠ p ∧ (s.lockAt l).holds h = true ∧ s.reachable h p
    (closes → ∃ t, exec i s = .next t ∧ t.port p = (s.port p).answered .deadlock ∧ s.sameBut t [p] []) ∧
    (¬ closes → ∃ t, exec i s = .next t ∧
      t.port p = { s.port p with
        state := .waitLock, done := false, kind := .none, corr := false, rej := false, running := some ⟨c, .ascending⟩,
        outgoing := none } ∧
      t.lockAt l = { s.lockAt l with
        queue := (s.lockAt l).queueWith ⟨p, w, s.waitDeadline .betweenTicks limit⟩ } ∧ s.sameBut t [p] [l]) := by
  refine ⟨fun hc => exec_answered hi (hu.trans (State.waitOrRefuse_deadlock hl hc)), fun hc => ?_⟩
  rw [hi, hu, State.waitOrRefuse_placed (s := s.hand p c r) hl hc, State.placeEntry_eq]
  obtain ⟨hport, hlock, hsame⟩ := (s.hand p c r).setLock_onPort_effect l
    { s.lockAt l with queue := (s.lockAt l).queueWith ⟨p, w, s.waitDeadline .betweenTicks limit⟩ } p
    fun q => { q with state := .waitLock, outgoing := none }
  rw [State.port_hand] at hport
  exact ⟨_, rfl, hport, hlock, hsame.of_onPort List.mem_cons_self⟩

/-- A command after which the queue of a lock is re-examined ends NONE with the commands of the ports granted (R38, R39). -/
theorem exec_answered_reexamines {k : Lock} (hi : exec i s = .next u)
    (hu : u = (((s.hand p c r).setLock l k).reexamine .betweenTicks l).complete p .none) :
    let a := Lock.admitFrom (s.leaseDeadline .betweenTicks k.lease) k.queue k
    ∃ t, exec i s = .next t ∧ t.lockAt l = a.1 ∧ t.port p = (s.port p).answered .none ∧
      (∀ q ∈ a.2, q ≠ p → t.port q = (s.port q).complete .none) ∧ s.sameBut t (p :: a.2) [l] := by
  obtain ⟨hlock, hport, hgranted, hsame⟩ := (s.hand p c r).reexamine_complete_effect .betweenTicks l k p
  rw [State.port_hand] at hport
  subst hu
  refine ⟨_, hi, hlock, hport, fun q hq hne => ?_, hsame.of_onPort List.mem_cons_self⟩
  rw [hgranted q hq hne, State.port_hand_ne hne]

end answers

/-- What admits a grant at once of each wanted mode (R42, R43, R46). -/
theorem Lock.grantedAtOnce_iff (k : Lock) (p : PortId) (w : Wanted) :
    k.grantedAtOnce p w = true ↔ match w with
      | .shared => k.queue = [] ∧ k.mode ≠ .exclusive
      | .exclusive => k.mode = .free
      | .upgrade => k.holderList = [p] := by
  cases w <;> simp [Lock.grantedAtOnce]

/-! ## The statements -/

/-- Settles O16: an ACQUIRE and an UPGRADE end in the same two steps, the deadlock check and the placing of the entry. -/
theorem waitsUnlessADeadlockWouldClose : Obligations.WaitsUnlessADeadlockWouldClose := by
  intro s p l hs hd hl k d closes x hx hwaits
  fin_cases hx
  · obtain ⟨hh, hbusy⟩ := of_decide_eq_true hwaits
    have hg : k.grantedAtOnce p .shared = false := by
      simpa [Bool.eq_false_iff, Lock.grantedAtOnce_iff, imp_iff_not_or] using hbusy
    exact exec_answered_waits hs.acquireShared (State.takeAcquire_waits (s := s.hand p _ _) hd hh hg) hl
  · obtain ⟨hh, hbusy⟩ := of_decide_eq_true hwaits
    have hg : k.grantedAtOnce p .exclusive = false := Bool.eq_false_iff.2 (mt (k.grantedAtOnce_iff p .exclusive).1 hbusy)
    exact exec_answered_waits hs.acquireExclusive (State.takeAcquire_waits (s := s.hand p _ _) hd hh hg) hl
  · obtain ⟨hh, hm, hothers, hnone⟩ := of_decide_eq_true hwaits
    exact exec_answered_waits hs.upgrade (State.takeUpgrade_waits (s := s.hand p _ _) hd hh hm hothers hnone) hl

/-- Settles O14: the table grants where `Lock.grantedAtOnce` admits it. -/
theorem acquireGrantedAtOnce : Obligations.AcquireGrantedAtOnce := by
  intro s p l hs hd hh
  refine ⟨fun hq hm => ?_, fun hm => ?_⟩
  · exact exec_answered_setLock hs.acquireShared (State.takeAcquire_granted (s := s.hand p _ _) hd hh
      ((Lock.grantedAtOnce_iff _ p .shared).2 ⟨hq, hm⟩))
  · exact exec_answered_setLock hs.acquireExclusive (State.takeAcquire_granted (s := s.hand p _ _) hd hh
      ((Lock.grantedAtOnce_iff _ p .exclusive).2 hm))

/-- Settles O17: the only holder stays the only one, since a grant adds none but the port itself. -/
theorem upgradeGrantedAtOnce : Obligations.UpgradeGrantedAtOnce := by
  intro s p l hs hd hm honly
  have hh : (s.lockAt l).holds p = true := (honly p).2 rfl
  have hm' : (s.lockAt l).mode ≠ .exclusive := by rw [hm]; decide
  obtain ⟨t, ht, hport, hlock, hsame⟩ := exec_answered_setLock hs.upgrade
    (State.takeUpgrade_granted (s := s.hand p _ _) hd hh hm' ((Lock.holderList_eq_singleton _ p).2 honly))
  rw [State.lockAt_hand] at hlock
  refine ⟨t, ht, hport, ?_⟩
  rw [hlock]
  refine ⟨rfl, fun h => ?_, ?_, rfl, hsame⟩
  · rw [Lock.grant_holds, Bool.or_eq_true, decide_eq_true_eq, honly, or_self]
  · exact (getElem_set_port _ p p _).trans (if_pos rfl)

/-- Settles O18: what RELEASE and DOWNGRADE leave of the record is re-examined; RENEW puts the hold anew. -/
theorem holdsKeptAndGivenUp : Obligations.HoldsKeptAndGivenUp := by
  refine ⟨?_, fun s p l hs hd hh => ⟨fun hl => ?_, fun hl => ?_⟩⟩
  · intro s p l hs hd hh k released x hx hholds
    fin_cases hx
    · have hdone := State.takeRelease_done (s := s.hand p .release (.release l)) hd hh
      rw [Lock.dropHold_eq] at hdone
      exact exec_answered_reexamines (k := released) hs.release hdone
    · exact exec_answered_reexamines (k := { k with mode := .shared }) hs.downgrade
        (State.takeDowngrade_done (s := s.hand p _ _) hd ⟨hh, of_decide_eq_true hholds⟩)
  · exact exec_answered_setLock hs.renew (State.takeRenew_done (s := s.hand p _ _) hd hh hl)
  · exact exec_answered hs.renew (State.takeRenew_unlimited (s := s.hand p _ _) hd hh hl)

end Sys2Proof.Machine
end

/-! # The withdrawal of an aborting port's request or entry -/

section
namespace Sys2Proof.Machine

section withdrawal

variable {s : State} {p : PortId}

theorem State.withdrawEntry_no_abort (h : (s.port p).held ≠ some .abort) : s.withdrawEntry p = s :=
  if_neg fun hw => h hw.2

theorem State.withdrawEntry_not_waiting (h : (s.port p).state ≠ .waitLock ∨ ∀ m : LockId, (s.lockAt m).waits p = false) :
    s.withdrawEntry p = s := by
  simp only [State.withdrawEntry]
  split_ifs with hw
  · rw [List.find?_eq_none.2 fun m _ => by simp [h.resolve_left (not_not.2 hw.1) m]]
  · rfl

/-- The queue an aborting port waits in is the one found (R36, R57). -/
theorem State.withdrawEntry_waiting {l : LockId} (hs : (s.port p).state = .waitLock) (hh : (s.port p).held = some .abort)
    (hl : (s.lockAt l).waits p = true) (hothers : ∀ m : LockId, m ≠ l → (s.lockAt m).waits p = false) :
    s.withdrawEntry p =
      ((s.complete p .aborted).setLock l ((s.lockAt l).removeEntry p)).reexamine .betweenTicks l := by
  have hfound : (allLocks.find? fun m => (s.lockAt m).waits p) = some l := by
    cases hf : allLocks.find? fun m => (s.lockAt m).waits p with
    | none => exact absurd hl (by simpa using List.find?_eq_none.1 hf l (mem_allLocks l))
    | some m =>
      have hm : (s.lockAt m).waits p = true := List.find?_some (p := fun m => (s.lockAt m).waits p) hf
      by_contra hne
      rw [hothers m fun e => hne (by rw [e])] at hm
      cases hm
  simp only [State.withdrawEntry, if_pos (And.intro hs hh), hfound]
  rfl

/-- An entry is removed, the queue of the rest re-examined, and the command of its port ends ABORTED (R56, R57). -/
theorem State.removeEntry_effect (s : State) (p : PortId) (l : LockId) :
    let k := (s.lockAt l).removeEntry p
    let r := Lock.admitFrom (s.leaseDeadline .betweenTicks k.lease) k.queue k
    let t := ((s.complete p .aborted).setLock l k).reexamine .betweenTicks l
    t.lockAt l = r.1 ∧ t.port p = (s.port p).complete .aborted ∧ (∀ q ∈ r.2, t.port q = (s.port q).complete .none) ∧
      s.sameBut t (p :: r.2) [l] := by
  intro k r t
  obtain ⟨hlock, hport, hsame⟩ : t.lockAt l = r.1 ∧
      (∀ q, t.port q = if q ∈ r.2 then ((s.complete p .aborted).port q).complete .none else (s.complete p .aborted).port q) ∧
      (s.complete p .aborted).sameBut t r.2 [l] := (s.complete p .aborted).reexamine_effect .betweenTicks l k
  have hgone : ∀ q ∈ r.2, q ≠ p := fun q hq => by
    obtain ⟨w, hw, rfl⟩ := List.mem_map.1 (Lock.admit_ports _ _ _ q hq)
    exact of_decide_eq_true (List.mem_filter.1 hw).2
  refine ⟨hlock, ?_, fun q hq => ?_, (s.sameBut_complete p .aborted).trans hsame (by simp) (by simp)⟩
  · rw [hport, if_neg fun hp => hgone p hp rfl, State.port_complete, if_pos rfl]
  · rw [hport, if_pos hq, State.port_complete, if_neg (hgone q hq)]

theorem State.withdrawHanded_request {r : HandedRequest} (ho : (s.port p).outgoing = some (.handed r))
    (hh : (s.port p).held = some .abort) : s.withdrawHanded p = s.complete p .aborted := by
  simp only [State.withdrawHanded, ho, hh]

/-- Without a handed request to drop, the withdrawal is that of the entry placed for it (R57, R109). -/
theorem State.withdrawHanded_entry
    (h : (s.port p).held ≠ some .abort ∨ ∀ r : HandedRequest, (s.port p).outgoing ≠ some (.handed r)) :
    s.withdrawHanded p = s.withdrawEntry p := by
  simp only [State.withdrawHanded]
  split
  · rename_i r ho hh
    exact absurd ho (h.resolve_left (not_not.2 hh) r)
  · rfl

end withdrawal

/-- Settles O34: either withdrawal of an entry is the same operation, and it finds the one queue its port waits in. -/
theorem abortWithdrawals : Obligations.AbortWithdrawals := by
  refine ⟨fun s p r ho hh => ?_, ?_, fun s p hh => ⟨?_, ?_⟩⟩
  · exact exec_ends (i := .handedRequestWithdrawal p) rfl (State.withdrawHanded_request ho hh)
  · intro s p l x hx hout k rest r
    have hi : exec x s = .next (s.withdrawEntry p) := by
      fin_cases hx
      · rfl
      · exact congrArg Host.Outcome.next (State.withdrawHanded_entry (.inr (hout.resolve_left nofun)))
    refine ⟨fun hs hh hl hothers => ⟨_, hi, ?_⟩, fun h => hi.trans (congrArg _ (State.withdrawEntry_not_waiting h))⟩
    rw [State.withdrawEntry_waiting hs hh hl hothers]
    exact s.removeEntry_effect p l
  · exact congrArg Host.Outcome.next (State.withdrawEntry_no_abort hh)
  · exact congrArg Host.Outcome.next ((State.withdrawHanded_entry (.inl hh)).trans (State.withdrawEntry_no_abort hh))

end Sys2Proof.Machine
end

/-! # What holds in every state from power-on -/

section
namespace Sys2Proof.Machine

/-- In a sound queue an UPGRADE waiter is the head, and no port stands twice: so one waiter at most wants UPGRADE (R37). -/
theorem Lock.queueSound.upgrades_le_one {k : Lock} (h : k.queueSound) :
    (k.queue.filter fun w => w.want = .upgrade).length ≤ 1 := by
  obtain ⟨hnodup, -, hhead⟩ := h
  cases hq : k.queue with
  | nil => exact Nat.zero_le 1
  | cons x ws =>
    rw [hq] at hnodup hhead
    have hrest : (ws.filter fun w => w.want = .upgrade) = [] := by
      refine List.filter_eq_nil_iff.2 fun w hw hu => ?_
      obtain ⟨hx, -⟩ := hhead w (List.mem_cons_of_mem x hw) (of_decide_eq_true hu)
      obtain rfl : x = w := Option.some.inj hx
      exact (List.nodup_cons.1 hnodup).1 (List.mem_map_of_mem hw)
    rw [List.filter_cons, hrest]
    split <;> simp

/-- Every state the part comes to from power-on is sound: power-on leaves it so, and every command keeps it so. -/
theorem State.Reached.sound {s : State} (h : s.Reached) : s.sound := by
  induction h with
  | powerOn => exact powerOnStateIsSound
  | command c _ e ih => exact exec_keeps_sound ih e

/-- Settles O59: the queues of a sound part. -/
theorem waitersAndHolders : Obligations.WaitersAndHolders := by
  intro s hs
  obtain ⟨-, -, ⟨hlocks, -, ⟨hwaits, hone⟩, -⟩, -⟩ := hs.sound
  refine ⟨hone, hwaits, fun l => ?_⟩
  obtain ⟨-, -, hqueue, -⟩ := hlocks l
  refine ⟨hqueue.1, hqueue.upgrades_le_one, fun w hw => ⟨hqueue.2.1 w hw, fun hu => ?_⟩⟩
  obtain ⟨hhead, hholds, hmode⟩ := hqueue.2.2 w hw hu
  exact ⟨hholds, hmode, hhead⟩

/-- Settles O60: a sound part has no waits-for cycle along four edges, so it has none. -/
theorem waitsForHasNoCycle : Obligations.WaitsForHasNoCycle := by
  intro s hs
  obtain ⟨-, -, ⟨-, -, -, hcycle⟩, -⟩ := hs.sound
  exact s.noCycle_iff.1 hcycle

end Sys2Proof.Machine
end

/-! # The tick, lost sets, and the deadlines that fall -/

section
namespace Sys2Proof.Machine

/-! ## The tick -/

section time

variable (s : State) (n : Byte)

/-- As part of a tick `n` units of 10 ms end `10 * n` ticks on (R63). -/
theorem State.deadline_atTick : s.deadline .atTick n = s.now + 10 * n.toNat := rfl

/-- Between two ticks the first tick does not end a whole millisecond, so one tick more is needed (R63; log 8). -/
theorem State.deadline_betweenTicks : s.deadline .betweenTicks n = s.now + 10 * n.toNat + 1 := rfl

theorem State.leaseDeadline_zero (m : Moment) : s.leaseDeadline m 0 = none := rfl

theorem State.leaseDeadline_of_ne {n : Byte} (m : Moment) (h : n ≠ 0) : s.leaseDeadline m n = some (s.deadline m n) := if_neg h

theorem State.waitDeadline_max (m : Moment) : s.waitDeadline m 255 = none := rfl

theorem State.waitDeadline_of_ne {n : Byte} (m : Moment) (h : n ≠ 255) : s.waitDeadline m n = some (s.deadline m n) := if_neg h

theorem State.isDue_none : s.isDue none = false := rfl

theorem State.isDue_some (d : Tick) : s.isDue (some d) = true ↔ d ≤ s.now := decide_eq_true_iff

end time

/-- Settles O13: the tick changes the time and the running timer alone, and a deadline is its length from now. -/
theorem ticksAndDeadlines : Obligations.TicksAndDeadlines := by
  refine ⟨fun s n => ⟨?_, fun hn => ⟨?_, ?_⟩, ?_, fun hn => ⟨?_, ?_⟩, s.isDue_none, s.isDue_some⟩, fun s => ?_⟩
  · exact ⟨s.leaseDeadline_zero _, s.leaseDeadline_zero _⟩
  · rw [s.leaseDeadline_of_ne _ hn, s.deadline_atTick]
  · rw [s.leaseDeadline_of_ne _ hn, s.deadline_betweenTicks]
  · exact ⟨s.waitDeadline_max _, s.waitDeadline_max _⟩
  · rw [s.waitDeadline_of_ne _ hn, s.deadline_atTick]
  · rw [s.waitDeadline_of_ne _ hn, s.deadline_betweenTicks]
  · have timer : s.takeTick.scrubber.timer = s.scrubber.timer.map fun m => { m with elapsed := m.elapsed + 1 } := rfl
    refine ⟨s.takeTick, rfl, rfl, rfl, fun hstopped => ?_, fun m hruns => ?_,
      fun _ _ => rfl, fun _ _ => rfl, rfl, rfl, rfl, rfl, rfl, rfl⟩
    · rw [timer, hstopped, Option.map_none]
    · rw [timer, hruns, Option.map_some]

/-! ## Lost sets -/

section lost

variable (q : Port) (l m : LockId) (v : Byte)

theorem getElem_set_lock (lost : Vector Bool 32) (l m : LockId) (a : Bool) :
    (lost.set l a)[m] = if m = l then a else lost[m] := by
  rw [Fin.getElem_fin, Vector.getElem_set]
  exact if_congr (eq_comm.trans Fin.ext_iff.symm) rfl rfl

/-- A lock id enters a lost set, and the others stay (R76). -/
theorem Port.addLost_lost_getElem : (q.addLost l).lost[m] = (q.lost[m] || m == l) := by
  simp only [Port.addLost_lost, getElem_set_lock]
  by_cases h : m = l
  · rw [if_pos h, h, beq_self_eq_true, Bool.or_true]
  · rw [if_neg h, beq_eq_false_iff_ne.2 h, Bool.or_false]

/-- The value of a write of LOST leaves the lost set if it is a lock id, and the others stay (R77). -/
theorem Port.writeLost_lost_getElem : (q.writeLost v).lost[m] = if v.toNat = m.val then false else q.lost[m] := by
  by_cases hid : v.toNat ≤ 31
  · have hnamed : m = Fin.ofNat 32 v.toNat ↔ v.toNat = m.val := by
      rw [Fin.ext_iff, Fin.val_ofNat]
      omega
    simp only [Port.writeLost, if_pos hid, Port.removeLost_lost, getElem_set_lock, hnamed]
  · have hm : ¬ v.toNat = m.val := by omega
    simp only [Port.writeLost, if_neg hid, if_neg hm]

/-- A write of LOST changes no other field of its port unit (R77). -/
theorem Port.writeLost_rest : q.writeLost v = { q with lost := (q.writeLost v).lost } := by
  rw [Port.writeLost]
  split <;> rfl

/-- Lock ids are searched in their order, so the first one found is the lowest (R77). -/
theorem Port.lowestLost_eq_some (h : q.lost[l] = true) (hmin : ∀ m : LockId, m.val < l.val → q.lost[m] = false) :
    q.lowestLost = some l := by
  have hall : ∀ (i : Nat) (hi : i < allLocks.length), (allLocks[i]).val = i := by decide
  refine List.find?_eq_some_iff_getElem.2 ⟨h, l.val, l.isLt, Fin.ext (hall _ _), fun j hj => ?_⟩
  rw [hmin _ ((hall j _).trans_lt hj)]
  rfl

theorem Port.lowestLost_eq_none (h : ∀ l : LockId, q.lost[l] = false) : q.lowestLost = none :=
  List.find?_eq_none.2 fun l _ => by rw [h l]; exact Bool.false_ne_true

end lost

/-- A read of LOST (R77). -/
theorem State.readWindow_lost (s : State) (p : PortId) :
    s.readWindow p 0xF = (s.port p).lowestLost.elim 0xFF fun l => BitVec.ofNat 8 l.val := by
  simp only [State.readWindow]
  cases (s.port p).lowestLost <;> rfl

/-- Settles O30: a write takes the id it names out of the set, and a read finds the first id of the set. -/
theorem lostRegister : Obligations.LostRegister := by
  intro s p v
  refine ⟨⟨_, rfl, s.sameBut_onPort p _, ?_, fun l => ?_⟩, fun l hl hmin => ?_, fun hnone => ?_⟩
  · rw [State.port_onPort_self]
    exact (s.port p).writeLost_rest v
  · rw [State.port_onPort_self]
    exact (s.port p).writeLost_lost_getElem l v
  · rw [State.readWindow_lost, Port.lowestLost_eq_some _ l hl hmin]
    rfl
  · rw [State.readWindow_lost, Port.lowestLost_eq_none _ hnone]
    rfl

/-! ## A port leaves a record, and the queue is re-examined -/

section leaves

variable (s : State) (m : Moment) (l : LockId) (k : Lock) (p : PortId)

/-- A port unit changes, a lock record is put and its queue re-examined, all at one event (R38, R39). -/
theorem State.onPort_reexamine_effect (f : Port → Port) :
    let r := Lock.admitFrom (s.leaseDeadline m k.lease) k.queue k
    let t := ((s.onPort p f).setLock l k).reexamine m l
    t.lockAt l = r.1 ∧ t.port p = (if p ∈ r.2 then (f (s.port p)).complete .none else f (s.port p)) ∧
      (∀ q ∈ r.2, q ≠ p → t.port q = (s.port q).complete .none) ∧ s.sameBut t (p :: r.2) [l] := by
  intro r t
  obtain ⟨hlock, hport, hsame⟩ : t.lockAt l = r.1 ∧
      (∀ q, t.port q = if q ∈ r.2 then ((s.onPort p f).port q).complete .none else (s.onPort p f).port q) ∧
      (s.onPort p f).sameBut t r.2 [l] := (s.onPort p f).reexamine_effect m l k
  refine ⟨hlock, ?_, fun q hq hne => ?_, (s.sameBut_onPort p f).trans hsame (by simp) (by simp)⟩
  · rw [hport, State.port_onPort_self]
  · rw [hport, if_pos hq, State.port_onPort_ne _ _ hne]

/-- A port whose entry has left the queue is not granted. -/
theorem Lock.removeEntry_ports (lease : Option Tick) (j : Lock) : p ∉ (Lock.admitFrom lease (k.removeEntry p).queue j).2 := by
  intro hp
  obtain ⟨w, hw, rfl⟩ := List.mem_map.1 (Lock.admit_ports lease _ _ p hp)
  exact of_decide_eq_true (List.mem_filter.1 hw).2 rfl

end leaves

/-! ## A lease expires -/

section lease

variable {s : State} {l : LockId} {p : PortId} {h : Hold}

/-- The record without the hold of `p`, and without its UPGRADE entry where one waits (R67, R68). -/
def Lock.loseHold (k : Lock) (p : PortId) : Lock := if k.upgrades p then (k.dropHold p).removeEntry p else k.dropHold p

/-- Port unit of a port that has lost its hold of lock `l`: its UPGRADE, if one waited, has ended HOLD_LOST (R67, R68). -/
def Port.loseHold (q : Port) (l : LockId) (upgrades : Bool) : Port :=
  if upgrades then (q.addLost l).complete .holdLost else q.addLost l

theorem Lock.loseHold_eq (k : Lock) (p : PortId) : k.loseHold p = { k with
    holders := k.holders.set p none
    mode := if ∀ h : PortId, h ≠ p → k.holds h = false then LockMode.free else k.mode
    queue := if k.upgrades p then k.queue.filter fun w => w.port ≠ p else k.queue } := by
  rw [Lock.loseHold, Lock.dropHold_eq]
  split <;> rfl

theorem Port.loseHold_lost (q : Port) (l : LockId) (upgrades : Bool) : (q.loseHold l upgrades).lost = (q.addLost l).lost := by
  cases upgrades <;> rfl

theorem State.expireLease_not_held (hold : (s.lockAt l).holders[p] = none) : s.expireLease l p = s := by
  simp only [State.expireLease, hold]

theorem State.expireLease_not_due (hold : (s.lockAt l).holders[p] = some h) (hdue : s.isDue h.lease = false) :
    s.expireLease l p = s := by
  simp only [State.expireLease, hold, hdue, Bool.false_eq_true, if_false]

/-- A due lease ends in one change of its port unit and one of the record, with the re-examination (R67, R68). -/
theorem State.expireLease_due (hold : (s.lockAt l).holders[p] = some h) (hdue : s.isDue h.lease = true) :
    s.expireLease l p = ((s.onPort p fun q => q.loseHold l ((s.lockAt l).upgrades p)).setLock l
      ((s.lockAt l).loseHold p)).reexamine .atTick l := by
  simp only [State.expireLease, hold, hdue, if_true]
  congr 1
  rw [Lock.loseHold]
  split
  · rename_i hu
    simp only [hu]
    exact State.onPort_onPort _ p _ _
  · rename_i hu
    simp only [hu]
    rfl

end lease

/-- Settles O35: the former holder is granted at this event only if an entry of another kind than UPGRADE is left of it. -/
theorem leaseExpiry : Obligations.LeaseExpiry := by
  intro s l p k rest r
  refine ⟨fun h hold hdue => ⟨_, congrArg Host.Outcome.next (State.expireLease_due hold hdue), ?_⟩,
    fun hold => congrArg Host.Outcome.next (State.expireLease_not_held hold),
    fun h hold hdue => congrArg Host.Outcome.next (State.expireLease_not_due hold hdue)⟩
  have hr : Lock.admitFrom (s.leaseDeadline .atTick (k.loseHold p).lease) (k.loseHold p).queue (k.loseHold p) = r := by
    rw [Lock.loseHold_eq]
  obtain ⟨hlock, hport, hgranted, hsame⟩ := s.onPort_reexamine_effect .atTick l (k.loseHold p) p fun q =>
    q.loseHold l (k.upgrades p)
  rw [hr] at hlock hport hgranted hsame
  refine ⟨hlock, fun m => ?_, fun hu => ?_, fun hu hp => ?_, hgranted, hsame⟩
  · rw [← Port.addLost_lost_getElem, ← Port.loseHold_lost _ l (k.upgrades p), hport, apply_ite Port.lost, Port.complete_lost,
      ite_self]
  · have hrest : rest = (k.removeEntry p).queue := if_pos hu
    have hgone : p ∉ r.2 := by
      simp only [r, hrest]
      exact k.removeEntry_ports p _ _
    rw [hport, if_neg hgone, hu]
    rfl
  · rw [hport, if_neg hp, hu]
    rfl

/-! ## A wait runs out -/

section wait

variable {s : State} {l : LockId} {w : Waiter}

theorem State.timeoutWait_not_waiting {p : PortId} (h : (s.lockAt l).waits p = false) : s.timeoutWait l p = s := by
  have hnone : ((s.lockAt l).queue.find? fun w => w.port = p) = none :=
    List.find?_eq_none.2 fun w hw => by simpa using (Lock.waits_eq_false _ p).1 h w hw
  simp only [State.timeoutWait, hnone]

/-- With one entry for each port the entry a timeout finds is the one of its port (R37). -/
theorem Lock.find_entry {k : Lock} (hw : w ∈ k.queue) (hnodup : (k.queue.map Waiter.port).Nodup) :
    (k.queue.find? fun v => v.port = w.port) = some w := by
  cases hfound : k.queue.find? fun v => v.port = w.port with
  | none => exact absurd (decide_eq_true rfl) (List.find?_eq_none.1 hfound w hw)
  | some v =>
    have hport : v.port = w.port := by simpa using List.find?_some hfound
    exact congrArg some (List.inj_on_of_nodup_map hnodup (List.mem_of_find?_eq_some hfound) hw hport)

theorem State.timeoutWait_not_due (hw : w ∈ (s.lockAt l).queue) (hnodup : ((s.lockAt l).queue.map Waiter.port).Nodup)
    (hdue : s.isDue w.deadline = false) : s.timeoutWait l w.port = s := by
  simp only [State.timeoutWait, Lock.find_entry hw hnodup, hdue, Bool.false_eq_true, if_false]

theorem State.timeoutWait_due (hw : w ∈ (s.lockAt l).queue) (hnodup : ((s.lockAt l).queue.map Waiter.port).Nodup)
    (hdue : s.isDue w.deadline = true) : s.timeoutWait l w.port =
      ((s.onPort w.port fun q => q.complete .waitTimeout).setLock l ((s.lockAt l).removeEntry w.port)).reexamine .atTick l := by
  simp only [State.timeoutWait, Lock.find_entry hw hnodup, hdue, if_true]
  rfl

end wait

/-- Settles O36: the entry found is the port's only one, so the re-examination does not grant the port. -/
theorem waitTimeout : Obligations.WaitTimeout := by
  intro s l p k rest r
  refine ⟨fun h => congrArg Host.Outcome.next (State.timeoutWait_not_waiting h), ?_⟩
  rintro w hw rfl hnodup
  refine ⟨fun hdue => congrArg Host.Outcome.next (State.timeoutWait_not_due hw hnodup hdue),
    fun hdue => ⟨_, congrArg Host.Outcome.next (State.timeoutWait_due hw hnodup hdue), ?_⟩⟩
  obtain ⟨hlock, hport, hgranted, hsame⟩ := s.onPort_reexamine_effect .atTick l (k.removeEntry w.port) w.port
    fun q => q.complete .waitTimeout
  have hgone : w.port ∉ r.2 := k.removeEntry_ports w.port _ (k.removeEntry w.port)
  exact ⟨hlock, hport.trans (if_neg hgone), fun q hq => hgranted q hq fun e => hgone (e ▸ hq), hsame⟩

end Sys2Proof.Machine
end

/-! # The choice of the arbiter, and the turns of the ports -/

section
namespace Sys2Proof.Machine

/-! ## The first request in an order of turns -/

/-- The place of a port in the order in which the arbiter looks for a request (R82). -/
def Arbiter.turn (a : Arbiter) (q : PortId) : PortId :=
  match a.mode with
  | .rotate => q - a.pointer - 1
  | .fixed => q

theorem Arbiter.portOrder_rising (a : Arbiter) : a.portOrder.Pairwise fun x y => a.turn x < a.turn y := by
  have rotated : ∀ r : PortId, [r + 1, r + 2, r + 3, r].Pairwise fun x y => x - r - 1 < y - r - 1 := by decide
  have counted : [0, 1, 2, 3].Pairwise fun x y : PortId => x < y := by decide
  cases h : a.mode <;> simp only [Arbiter.portOrder, Arbiter.turn, h]
  · exact rotated a.pointer
  · exact counted

/-- In a list that rises by `r`, the first element with a property is the one of least `r`. -/
theorem find?_eq_some_iff_least {α : Type} {r : α → PortId} {f : α → Bool} {l : List α}
    (hl : l.Pairwise fun x y => r x < r y) (a : α) :
    l.find? f = some a ↔ a ∈ l ∧ f a = true ∧ ∀ b ∈ l, r b < r a → f b = false := by
  induction l with
  | nil => simp
  | cons x l ih =>
    obtain ⟨hx, hl⟩ := List.pairwise_cons.1 hl
    cases hf : f x with
    | true =>
      rw [List.find?_cons_of_pos hf, Option.some_inj]
      refine ⟨fun e => ?_, fun ⟨hm, _, hleast⟩ => ?_⟩
      · subst e
        refine ⟨List.mem_cons_self, hf, List.forall_mem_cons.2 ⟨fun h => absurd h (lt_irrefl _), fun b hb h => ?_⟩⟩
        exact absurd h (lt_asymm (hx b hb))
      · rcases List.mem_cons.1 hm with e | hm
        · exact e.symm
        · exact absurd hf (by simp [hleast x List.mem_cons_self (hx a hm)])
    | false =>
      rw [List.find?_cons_of_neg (by simp [hf]), ih hl]
      constructor
      · rintro ⟨hm, ha, hleast⟩
        exact ⟨List.mem_cons_of_mem x hm, ha, List.forall_mem_cons.2 ⟨fun _ => hf, hleast⟩⟩
      · rintro ⟨hm, ha, hleast⟩
        refine ⟨(List.mem_cons.1 hm).resolve_left fun e => ?_, ha, fun b hb => hleast b (List.mem_cons_of_mem x hb)⟩
        rw [e, hf] at ha
        cases ha

/-! ## The choice -/

section choose

variable {a : Arbiter} {p : PortId}

/-- The scrub request goes first once 16 port grants have passed it (R82, R84). -/
theorem Arbiter.choose_overdue (hr : a.scrubReq.isSome) (hw : 16 ≤ a.scrubWait) : a.choose = some .scrubber :=
  if_pos ⟨hr, hw⟩

/-- A port is chosen exactly if it waits, no port whose turn comes earlier does, and the scrub request has not let 16 grants
pass (R82, R84). -/
theorem Arbiter.choose_port_iff : a.choose = some (.port p) ↔
    ¬ (a.scrubReq.isSome ∧ 16 ≤ a.scrubWait) ∧ a.waiting[p].isSome ∧ ∀ q, a.turn q < a.turn p → a.waiting[q] = none := by
  have hfind : (a.portOrder.find? fun q => a.waiting[q].isSome) = some p ↔
      a.waiting[p].isSome ∧ ∀ q, a.turn q < a.turn p → a.waiting[q] = none := by
    simp [find?_eq_some_iff_least a.portOrder_rising, a.mem_portOrder]
  by_cases hs : a.scrubReq.isSome ∧ 16 ≤ a.scrubWait
  · simp [Arbiter.choose_overdue hs.1 hs.2, hs]
  · rw [← hfind, Arbiter.choose, if_neg (show ¬ (_ ∧ Config.scrubBound ≤ _) from hs)]
    cases h : a.portOrder.find? fun q => a.waiting[q].isSome with
    | some q => simp [hs]
    | none =>
      simp only [hs]
      split_ifs <;> simp

/-- Without a port's request the choice is the scrub request, if there is one (R82). -/
theorem Arbiter.choose_no_port (h : ∀ q : PortId, a.waiting[q] = none) :
    a.choose = if a.scrubReq.isSome then some .scrubber else none := by
  have hfind : (a.portOrder.find? fun q => a.waiting[q].isSome) = none := by simp [h]
  simp only [Arbiter.choose, hfind]
  split_ifs with hs hr hr
  · rfl
  · exact absurd hs.1 hr
  · rfl
  · rfl

end choose

/-! ## The statements -/

/-- Settles O40, by the order of turns in each mode. -/
theorem arbiterChoice : Obligations.ArbiterChoice := by
  intro a
  refine ⟨fun hr hw => Arbiter.choose_overdue (Option.isSome_iff_ne_none.2 hr) hw, fun p hs hp => ?_,
    Arbiter.choose_no_port⟩
  have notDue : ¬ (a.scrubReq.isSome ∧ 16 ≤ a.scrubWait) := by
    rintro ⟨hr, hw⟩
    rcases hs with hs | hs
    · simp [hs] at hr
    · omega
  have chosen : (∀ q, a.turn q < a.turn p → a.waiting[q] = none) → a.choose = some (.port p) := fun hq =>
    Arbiter.choose_port_iff.2 ⟨notDue, hp, hq⟩
  refine ⟨fun hm hq => chosen fun q => ?_, fun hm hq => chosen fun q => ?_⟩
  · simpa only [Arbiter.turn, hm] using hq q
  · simpa only [Arbiter.turn, hm] using hq q

/-- Settles O41: the port granted had its turn before port `p`, and the turns count from it now. -/
theorem rotationReachesEveryPort : Obligations.RotationReachesEveryPort := by
  intro a p q hm hp hq hne
  obtain ⟨-, -, hfirst⟩ := Arbiter.choose_port_iff.1 hq
  have hturn : ∀ r, a.turn r = r - a.pointer - 1 := fun r => by simp only [Arbiter.turn, hm]
  have hle : q - a.pointer - 1 ≤ p - a.pointer - 1 := by
    rw [← hturn, ← hturn]
    exact not_lt.1 fun hlt => absurd hp (by simp [hfirst p hlt])
  have nearer : ∀ r p q : PortId, q ≠ p → q - r - 1 ≤ p - r - 1 → p - q - 1 < p - r - 1 := by decide
  exact ⟨(getElem_set_port a.waiting q p none).trans (if_neg hne.symm), nearer a.pointer p q hne hle⟩

end Sys2Proof.Machine
end

/-! # Arrivals, grants and withdrawals at the pool arbiter -/

section
namespace Sys2Proof.Machine

/-! ## What a change leaves, beside the arbiter and the pool -/

section beside

variable {s s' t : State} {p : PortId} {ps : List PortId} {ls : List LockId}

theorem State.sameBut.withArbiter (h : s.sameBut t ps ls) (a : Arbiter) :
    State.sameBut { s with arbiter := a } { t with arbiter := a } ps ls := by
  obtain ⟨hports, hlocks, hpool, -, hrest⟩ := h
  exact ⟨hports, hlocks, hpool, rfl, hrest⟩

theorem State.sameBut.withPool (h : s.sameBut t ps ls) (P : Pool) :
    State.sameBut { s with pool := P } { t with pool := P } ps ls := by
  obtain ⟨hports, hlocks, -, hrest⟩ := h
  exact ⟨hports, hlocks, rfl, hrest⟩

/-- A port reset of `p` finds the same locks and the same other ports. -/
theorem State.resetOf.congr (h : s'.resetOf t p) (hl : s'.locks = s.locks) (hn : s'.now = s.now)
    (hp : ∀ q, q ≠ p → s'.port q = s.port q) : s.resetOf t p := by
  have lock : ∀ l, s'.lockAt l = s.lockAt l := fun l => by simp only [State.lockAt, hl]
  have lease : ∀ n, s'.leaseDeadline .betweenTicks n = s.leaseDeadline .betweenTicks n := fun n => by
    simp only [State.leaseDeadline, State.deadline, hn]
  obtain ⟨hself, hlocks, hgranted, hkept⟩ := h
  simp only [lock, lease] at hlocks hgranted hkept
  exact ⟨hself, hlocks, fun q hq hg => (hp q hq) ▸ hgranted q hq hg, fun q hq hg => (hp q hq) ▸ hkept q hq hg⟩

end beside

/-! ## A grant to a port -/

section port

variable {s : State} {p : PortId} {r : PoolRequest} {m : Moment}

/-- The part with the request of port `p` taken from the arbiter (R82, R83, R84). -/
def State.taken (s : State) (p : PortId) : State := { s with arbiter := s.arbiter.grantedPort p }

/-- The index of a port unit whose grant is refused: staging of a WRITE BLOCKS is discarded (R124). -/
def Port.indexRefused (q : Port) : Nat :=
  match q.running with
  | some ⟨.writeBlocks, _⟩ => 0
  | _ => q.index

/-- The port unit whose grant is refused: its command ends ACCESS (R128). -/
def Port.refused (q : Port) : Port := { q.complete .access with index := q.indexRefused }

/-- A port's transfer begins: the port is in ABORTING if an action is held (R93, R108, R111). -/
theorem State.beginTransfer_effect (s : State) (p : PortId) (r : PoolRequest) :
    let t := s.beginTransfer p r
    t.port p = { s.port p with state := if (s.port p).held.isSome then .aborting else (s.port p).state } ∧
      t.arbiter = s.arbiter ∧ t.pool = { s.pool with transfer := some (s.transferOf p r) } ∧
      s.sameBut { t with pool := s.pool } [p] [] := by
  let begun : Port → Port := fun q => if q.held.isSome then { q with state := .aborting } else q
  have state : ∀ q : Port, begun q = { q with state := if q.held.isSome then .aborting else q.state } := fun q => by
    simp only [begun]
    split_ifs <;> rfl
  refine ⟨(State.port_onPort_self _ p _).trans (state _), rfl, rfl, s.sameBut_onPort p begun⟩

/-- A refused grant ends the port's command, unless a port reset is held (R111, R124, R128). -/
theorem State.refuseGrant_ended (hh : (s.port p).held ≠ some .portReset) : s.refuseGrant m p = s.onPort p Port.refused := by
  have discarded : ∀ (q : Port) (o : Option Running),
      (match o with
        | some ⟨.writeBlocks, _⟩ => q.discard
        | _ => q).complete .access =
      { q.complete .access with
        index := match o with
          | some ⟨.writeBlocks, _⟩ => 0
          | _ => q.index } := by
    rintro q (_ | ⟨c, d⟩)
    · rfl
    · cases c <;> rfl
  rw [State.refuseGrant, if_neg hh]
  exact congrArg (s.onPort p) (funext fun q => discarded q q.running)

theorem State.refuseGrant_reset (hh : (s.port p).held = some .portReset) : s.refuseGrant m p = s.portResetEffect m p :=
  if_pos hh

/-- What a refused grant leaves of the ports and the locks. -/
theorem State.refuseGrant_effect (s : State) (p : PortId) :
    let t := s.refuseGrant .betweenTicks p
    t.arbiter = s.arbiter ∧
      ((s.port p).held ≠ some .portReset → t.port p = (s.port p).refused ∧ s.sameBut t [p] []) ∧
      ((s.port p).held = some .portReset → s.resetOf t p ∧ s.sameBut t allPorts allLocks) := by
  refine ⟨(State.refuseGrant_rest s .betweenTicks p).2.1, fun hh => ?_, fun hh => ?_⟩
  · rw [State.refuseGrant_ended hh]
    exact ⟨s.port_onPort_self p _, s.sameBut_onPort p _⟩
  · rw [State.refuseGrant_reset hh]
    exact s.portResetEffect_resetOf p

/-- With the pool free and port `p` chosen, a grant takes its request, and begins the transfer or refuses it (R83). -/
theorem State.grantOne_port (ht : s.pool.transfer = none) (hc : s.arbiter.choose = some (.port p))
    (hr : s.arbiter.waiting[p] = some r) :
    (s.accessAllowed p r = true → s.grantOne m = (s.taken p).beginTransfer p r) ∧
      (s.accessAllowed p r = false → s.grantOne m = (s.taken p).refuseGrant m p) := by
  have granted : s.grantOne m = s.grantPort m p := by simp only [State.grantOne, ht, hc]
  rcases s.grantPort_cases m p r hr with ⟨ha, h⟩ | ⟨ha, h⟩
  · exact ⟨fun _ => granted.trans h, fun hn => nomatch ha.symm.trans hn⟩
  · exact ⟨fun hn => (nomatch ha.symm.trans hn), fun _ => granted.trans h⟩

/-- The grants of an event end with the first allowed one, since its transfer is in flight (R81). -/
theorem State.grantAll_allowed (ht : s.pool.transfer = none) (hc : s.arbiter.choose = some (.port p))
    (hr : s.arbiter.waiting[p] = some r) (ha : s.accessAllowed p r = true) :
    s.grantAll m = (s.taken p).beginTransfer p r := by
  rw [State.grantAll_step, (State.grantOne_port ht hc hr).1 ha]
  exact State.grantAll_busy _ m nofun

/-- A refused grant leaves the pool free, and the next grant follows (R81). -/
theorem State.grantAll_refused (ht : s.pool.transfer = none) (hc : s.arbiter.choose = some (.port p))
    (hr : s.arbiter.waiting[p] = some r) (ha : s.accessAllowed p r = false) :
    s.grantAll m = ((s.taken p).refuseGrant m p).grantAll m := by
  rw [State.grantAll_step, (State.grantOne_port ht hc hr).2 ha]

end port

/-! ## A grant to the scrubber -/

section scrubber

variable {s : State} {b : BlockNo} {m : Moment}

/-- The end of a step of the scrubber, as part of a tick or between two ticks (R147, R150). -/
theorem Scrubber.endStep_eq (c : Scrubber) (m : Moment) :
    c.endStep m = if c.interval = 0 then ⟨0, c.position + 1, .off, none⟩
      else ⟨c.interval, c.position + 1, .timing, some ⟨0, ticksUntil m c.interval.toNat⟩⟩ := by
  rw [Scrubber.endStep]
  split_ifs with h
  · rw [← h]; rfl
  · rfl

/-- With the pool free and the scrubber chosen, a grant begins the scrub of a GOOD block (R149). -/
theorem State.grantAll_scrub (ht : s.pool.transfer = none) (hc : s.arbiter.choose = some .scrubber)
    (hb : s.arbiter.scrubReq = some b) (hg : s.pool.stateOf b = .good) :
    s.grantAll m = { s with
      arbiter := s.arbiter.withdrawScrub
      scrubber := { s.scrubber with phase := .scrubbing }
      pool := { s.pool with
        transfer := some ⟨.scrubber, .scrub, b, none, some (s.pool.readBlock b).1, (s.pool.readBlock b).2⟩ } } := by
  rw [State.grantAll_step]
  simp only [State.grantOne, ht, hc, State.grantScrub, hb, hg]
  exact State.grantAll_busy _ m nofun

/-- A block that is not GOOD is skipped, and the next grant follows (R81, R149). -/
theorem State.grantAll_skip (ht : s.pool.transfer = none) (hc : s.arbiter.choose = some .scrubber)
    (hb : s.arbiter.scrubReq = some b) (hg : s.pool.stateOf b ≠ .good) :
    s.grantAll m =
      State.grantAll { s with arbiter := s.arbiter.withdrawScrub, scrubber := s.scrubber.endStep m } m := by
  rw [State.grantAll_step]
  simp only [State.grantOne, ht, hc, State.grantScrub, hb]
  split
  · rename_i h; exact absurd h hg
  all_goals rfl

end scrubber

/-! ## An arrival -/

section arrival

variable {s : State} {p : PortId} {r : PoolRequest}

/-- The part with the pool request of port `p` at the arbiter (R81). -/
def State.arrived (s : State) (p : PortId) (r : PoolRequest) : State :=
  { s.onPort p fun q => { q with outgoing := none } with
    arbiter := { s.arbiter with waiting := s.arbiter.waiting.set p (some r) } }

theorem State.arrivePool_eq (h : (s.port p).outgoing = some (.pool r)) :
    s.arrivePool p = (s.arrived p r).grantAll .betweenTicks := by
  simp only [State.arrivePool, h]
  rfl

theorem State.arrivePool_none (h : ∀ r, (s.port p).outgoing ≠ some (.pool r)) : s.arrivePool p = s := by
  simp only [State.arrivePool]

theorem State.port_arrived (s : State) (p : PortId) (r : PoolRequest) :
    (s.arrived p r).port p = { s.port p with outgoing := none } :=
  s.port_onPort_self p fun q => { q with outgoing := none }

theorem State.port_arrived_ne {q : PortId} (h : q ≠ p) (r : PoolRequest) : (s.arrived p r).port q = s.port q :=
  s.port_onPort_ne (fun q => { q with outgoing := none }) h

theorem State.transferOf_arrived (s : State) (p : PortId) (r x : PoolRequest) :
    (s.arrived p r).transferOf p x = s.transferOf p x := by
  simp only [State.transferOf, State.port_arrived]
  rfl

theorem State.sameBut_arrived (s : State) (p : PortId) (r : PoolRequest) :
    s.sameBut { s.arrived p r with arbiter := s.arbiter } [p] [] :=
  s.sameBut_onPort p fun q => { q with outgoing := none }

/-- A request that no other waits beside is chosen, and its grant leaves none (R82). -/
theorem State.arrived_alone (h : s.noneWaits) (r : PoolRequest) :
    (s.arrived p r).arbiter.choose = some (.port p) ∧ (s.arrived p r).arbiter.waiting[p] = some r ∧
      ((s.arrived p r).taken p).arbiter = { s.arbiter with pointer := p } := by
  obtain ⟨hw, hs⟩ := h
  have hwaits : (s.arrived p r).arbiter.waiting[p] = some r := (getElem_set_port _ p p _).trans (if_pos rfl)
  refine ⟨Arbiter.choose_port_iff.2 ⟨fun hr => ?_, by rw [hwaits]; rfl, fun q hq => ?_⟩, hwaits, ?_⟩
  · exact absurd hr.1 (by rw [show (s.arrived p r).arbiter.scrubReq = none from hs]; decide)
  · refine (getElem_set_port _ p q _).trans ((if_neg fun e => ?_).trans (hw q))
    exact lt_irrefl _ (e ▸ hq)
  · have hall : (s.arbiter.waiting.set p (some r)).set p none = s.arbiter.waiting := by
      rw [Vector.set_set, ← hw p]
      exact Vector.set_getElem_self _
    simp [State.taken, Arbiter.grantedPort, State.arrived, hs, hall]

/-- A request that arrives alone and is refused leaves nothing to grant (R81, R83). -/
theorem State.grantAll_arrived_refused (ht : s.pool.transfer = none) (hn : s.noneWaits) (ha : s.accessAllowed p r = false) :
    (s.arrived p r).grantAll .betweenTicks = ((s.arrived p r).taken p).refuseGrant .betweenTicks p ∧
      (((s.arrived p r).taken p).refuseGrant .betweenTicks p).arbiter = { s.arbiter with pointer := p } := by
  obtain ⟨hc, hr, harb⟩ := State.arrived_alone (p := p) hn r
  obtain ⟨hself, -⟩ := ((s.arrived p r).taken p).refuseGrant_effect p
  refine ⟨?_, hself.trans harb⟩
  rw [State.grantAll_refused (s := s.arrived p r) ht hc hr ha]
  refine State.grantAll_none _ _ ?_
  rw [hself, harb]
  exact (Arbiter.choose_eq_none _).2 hn

end arrival

/-! ## A withdrawal -/

section withdrawal

variable {s : State} {p : PortId}

/-- The part without a request of port `p` at the arbiter (R85). -/
def State.dropRequest (s : State) (p : PortId) : State :=
  { s with arbiter := { s.arbiter with waiting := s.arbiter.waiting.set p none } }

theorem State.withdrawPool_nothing (h : s.poolRequested p = false ∨ (s.port p).held = none) : s.withdrawPool p = s := by
  rcases h with h | h
  · simp only [State.withdrawPool, h, Bool.false_eq_true, if_false]
  · simp only [State.withdrawPool, h, ite_self]

theorem State.withdrawPool_abort (hq : s.poolRequested p = true) (hh : (s.port p).held = some .abort) :
    s.withdrawPool p = (s.dropRequest p).complete p .aborted := by
  simp only [State.withdrawPool, hq, hh, if_true]
  rfl

theorem State.withdrawPool_reset (hq : s.poolRequested p = true) (hh : (s.port p).held = some .portReset) :
    s.withdrawPool p = (s.dropRequest p).portResetEffect .betweenTicks p := by
  simp only [State.withdrawPool, hq, hh, if_true]
  rfl

end withdrawal

/-! ## The statements -/

/-- Settles O43: a grant is one step of the grants of its event, and a request that arrives alone is the one chosen. -/
theorem arrivalAndGrant : Obligations.ArrivalAndGrant := by
  refine ⟨fun s p => ?_, fun s => ⟨fun h => ?_, fun p r ht hc hr => ?_, fun b ht hc hb => ?_⟩⟩
  · intro q
    refine ⟨fun h => congrArg Host.Outcome.next (State.arrivePool_none h), fun r ho =>
      ⟨_, congrArg Host.Outcome.next (State.arrivePool_eq ho), fun ht => ?_, fun ht => ?_, fun ht hn ha => ?_,
        fun ht hn ha hh => ?_, fun ht hn ha hh => ?_⟩⟩
    · rw [State.grantAll_busy (s.arrived p r) _ ht]
      exact ⟨s.port_arrived p r, rfl, s.sameBut_arrived p r⟩
    · exact ⟨s.arrived p r, rfl, s.port_arrived p r, rfl, s.sameBut_arrived p r⟩
    · obtain ⟨hc, hr, harb⟩ := State.arrived_alone (p := p) hn r
      obtain ⟨hport, hself, hpool, hsame⟩ := ((s.arrived p r).taken p).beginTransfer_effect p r
      rw [State.grantAll_allowed (s := s.arrived p r) ht hc hr ha]
      refine ⟨hport.trans ?_, hself.trans harb, hpool.trans ?_, ?_⟩
      · rw [show ((s.arrived p r).taken p).port p = _ from s.port_arrived p r]
      · rw [show ((s.arrived p r).taken p).transferOf p r = _ from s.transferOf_arrived p r r]
        rfl
      · exact (s.sameBut_arrived p r).trans (hsame.withArbiter s.arbiter) (by simp) (by simp)
    · obtain ⟨hgrants, harb⟩ := State.grantAll_arrived_refused (p := p) (r := r) ht hn ha
      obtain ⟨-, hended, -⟩ := ((s.arrived p r).taken p).refuseGrant_effect p
      rw [show ((s.arrived p r).taken p).port p = _ from s.port_arrived p r] at hended
      obtain ⟨hport, hsame⟩ := hended hh
      rw [hgrants]
      exact ⟨hport, harb, (s.sameBut_arrived p r).trans (hsame.withArbiter s.arbiter) (by simp) (by simp)⟩
    · obtain ⟨hgrants, harb⟩ := State.grantAll_arrived_refused (p := p) (r := r) ht hn ha
      obtain ⟨-, -, hreset⟩ := ((s.arrived p r).taken p).refuseGrant_effect p
      rw [show ((s.arrived p r).taken p).port p = _ from s.port_arrived p r] at hreset
      obtain ⟨hreset, hsame⟩ := hreset hh
      rw [hgrants]
      exact ⟨hreset.congr rfl rfl fun q hq => State.port_arrived_ne hq r, harb,
        (s.sameBut_arrived p r).trans (hsame.withArbiter s.arbiter) (by simp [mem_allPorts]) (by simp)⟩
  · exact congrArg Host.Outcome.next (h.elim (s.grantAll_busy _) (s.grantAll_none _))
  · intro q taken
    refine ⟨fun ha => ?_, fun ha hh => ?_, fun ha hh => ?_⟩
    · obtain ⟨hport, harb, hpool, hsame⟩ := (s.taken p).beginTransfer_effect p r
      exact ⟨_, congrArg Host.Outcome.next (State.grantAll_allowed ht hc hr ha), hport, harb, hpool,
        hsame.withArbiter s.arbiter⟩
    · obtain ⟨harb, hended, -⟩ := (s.taken p).refuseGrant_effect p
      obtain ⟨hport, hsame⟩ := hended hh
      exact ⟨_, _, congrArg Host.Outcome.next (State.grantAll_refused ht hc hr ha), rfl, hport, harb,
        hsame.withArbiter s.arbiter⟩
    · obtain ⟨harb, -, hreset⟩ := (s.taken p).refuseGrant_effect p
      obtain ⟨hreset, hsame⟩ := hreset hh
      exact ⟨_, _, congrArg Host.Outcome.next (State.grantAll_refused ht hc hr ha), rfl, hreset, harb,
        hsame.withArbiter s.arbiter⟩
  · intro c taken
    refine ⟨fun hg => congrArg Host.Outcome.next (State.grantAll_scrub ht hc hb hg), fun hg => ?_⟩
    refine (congrArg Host.Outcome.next (State.grantAll_skip ht hc hb hg)).trans ?_
    rw [Scrubber.endStep_eq]
    rfl

/-- Settles O45: an action held decides what the withdrawal of a request ends in (R108, R111). -/
theorem poolRequestWithdrawal : Obligations.PoolRequestWithdrawal := by
  intro s p gone
  refine ⟨fun hq hh => ⟨_, congrArg Host.Outcome.next (State.withdrawPool_abort hq hh), ?_⟩,
    fun hq hh => ⟨_, congrArg Host.Outcome.next (State.withdrawPool_reset hq hh), ?_⟩,
    fun h => congrArg Host.Outcome.next (State.withdrawPool_nothing h), fun hp hi hr => ?_,
    fun h => congrArg Host.Outcome.next (if_neg h)⟩
  · exact ⟨State.port_onPort_self _ p _, rfl, s.sameBut_complete p .aborted⟩
  · obtain ⟨hreset, hsame⟩ := (s.dropRequest p).portResetEffect_resetOf p
    obtain ⟨-, harb, -⟩ := (s.dropRequest p).portResetEffect_rest .betweenTicks p
    exact ⟨hreset, harb, hsame.withArbiter s.arbiter⟩
  · have hw : s.withdrawScrubRequest = { s with arbiter := s.arbiter.withdrawScrub, scrubber := s.scrubber.turnOff } :=
      if_pos ⟨hp, hi, hr⟩
    exact ⟨_, congrArg Host.Outcome.next hw, rfl, rfl, fun _ _ => rfl, fun _ _ => rfl, State.keepsBehind.refl s⟩

end Sys2Proof.Machine
end

/-! # The result of a transfer, and the grant that follows it -/

section
namespace Sys2Proof.Machine

/-! ## The result at a port unit -/

section result

variable {q : Port} {x : Transfer} {m : Bool} {k : ErrorKind}

/-- A correction mark sets ERROR.CORR (R7, R100). -/
theorem Port.takeMark_success (hx : x.result = .success m) : q.takeMark x = { q with corr := q.corr || m } := by
  cases m <;> simp [Port.takeMark, hx]

theorem Port.takeMark_failure (hx : x.result = .failure k) : q.takeMark x = q := by
  simp only [Port.takeMark, hx]

/-! ### In EXEC (R88, R116, R118) -/

theorem Port.takeResult_failure (hx : x.result = .failure k) : q.takeResult x = q.complete k := by
  simp only [Port.takeResult, hx]

theorem Port.takeResult_load (hx : x.result = .success m) (hk : x.kind = .load) :
    q.takeResult x = { q with state := .dataIn, index := 0, staging := x.data, corr := q.corr || m } := by
  simp only [Port.takeResult, hx, hk, Port.takeMark_success hx]
  rfl

theorem Port.takeResult_block (hx : x.result = .success m) (hk : x.kind ≠ .load) :
    q.takeResult x = Port.finishBlock { q with corr := q.corr || m } := by
  simp only [Port.takeResult, hx, Port.takeMark_success hx]

/-- After the last block the command ends NONE (R116). -/
theorem Port.finishBlock_last (hc : q.count = 1) : q.finishBlock = { q.complete .none with count := 0 } := by
  simp only [Port.finishBlock, Port.blockCompleted, hc]
  rfl

/-- Before the last block the command goes on (R116). -/
theorem Port.finishBlock_more (hc : 2 ≤ q.count.toNat) : q.finishBlock = q.blockCompleted.nextBlock := by
  have hn : q.blockCompleted.count ≠ 0 := by
    rw [q.blockCompleted_fields]
    show q.count - 1 ≠ 0
    bv_omega
  exact if_neg hn

section more

variable (hc : 2 ≤ q.count.toNat) {d : Direction}
include hc

/-- Where the next block or pair is (R116, R117). -/
theorem Port.blockCompleted_more {c : Command} (hr : q.running = some ⟨c, d⟩) (hcopy : c ≠ .copyBlocks) :
    q.blockCompleted = { q with count := q.count - 1, block := q.block + 1 } := by
  have hn : q.count - 1 ≠ 0 := by bv_omega
  simp only [Port.blockCompleted, if_neg hn, hr]
  split
  · rename_i h; cases h; exact absurd rfl hcopy
  · rename_i h; cases h; exact absurd rfl hcopy
  · rfl

theorem Port.blockCompleted_ascending (hr : q.running = some ⟨.copyBlocks, .ascending⟩) :
    q.blockCompleted = { q with count := q.count - 1, block := q.block + 1, dest := q.dest + 1 } := by
  have hn : q.count - 1 ≠ 0 := by bv_omega
  simp only [Port.blockCompleted, if_neg hn, hr]

theorem Port.blockCompleted_descending (hr : q.running = some ⟨.copyBlocks, .descending⟩) :
    q.blockCompleted = { q with count := q.count - 1, block := q.block - 1, dest := q.dest - 1 } := by
  have hn : q.count - 1 ≠ 0 := by bv_omega
  simp only [Port.blockCompleted, if_neg hn, hr]

end more

/-! How each command goes on with the block or pair its registers name (R118, R123). -/

section next

variable (q) {d : Direction}

theorem Port.nextBlock_write (hr : q.running = some ⟨.writeBlocks, d⟩) :
    q.nextBlock = { q with state := .dataOut, index := 0 } := by
  simp only [Port.nextBlock, Port.openPhase, hr]

variable (hs : q.state = .exec)
include hs

theorem Port.nextBlock_zero (hr : q.running = some ⟨.zeroBlocks, d⟩) :
    q.nextBlock = { q with outgoing := some (.pool ⟨.zero, q.block, none⟩) } := by
  simp only [Port.nextBlock, Port.requestBlock, Port.poolRequest, hr]
  rw [← hs]

theorem Port.nextBlock_verify (hr : q.running = some ⟨.verifyBlocks, d⟩) :
    q.nextBlock = { q with outgoing := some (.pool ⟨.verify, q.block, none⟩) } := by
  simp only [Port.nextBlock, Port.requestBlock, Port.poolRequest, hr]
  rw [← hs]

theorem Port.nextBlock_copy (hr : q.running = some ⟨.copyBlocks, d⟩) :
    q.nextBlock = { q with outgoing := some (.pool ⟨.copy, q.block, some q.dest⟩) } := by
  simp only [Port.nextBlock, Port.requestBlock, Port.poolRequest, hr]
  rw [← hs]

end next

/-! ### In ABORTING (R110) -/

theorem Port.blockCompleted_corr (q : Port) (c : Bool) :
    Port.blockCompleted { q with corr := c } = { q.blockCompleted with corr := c } := by
  simp only [Port.blockCompleted]
  split
  · rfl
  · split <;> rfl

theorem Port.settleAbort_failure (hx : x.result = .failure k) : q.settleAbort x = q.complete .aborted := by
  simp only [Port.settleAbort, hx, Port.takeMark_failure hx]

theorem Port.settleAbort_load (hx : x.result = .success m) (hk : x.kind = .load) :
    q.settleAbort x = { q.complete .aborted with index := 0, staging := x.data, corr := q.corr || m } := by
  simp only [Port.settleAbort, hx, hk, Port.takeMark_success hx]
  rfl

theorem Port.settleAbort_block (hx : x.result = .success m) (hk : x.kind ≠ .load) :
    q.settleAbort x = { q.blockCompleted.complete .aborted with corr := q.corr || m } := by
  simp only [Port.settleAbort, hx, Port.takeMark_success hx, Port.blockCompleted_corr]
  rfl

end result

/-! ## The end of a transfer in two parts -/

section ends

variable {s : State} {x : Transfer} {p : PortId}

/-- The part with the effects of transfer `x` at the pool, which is free. -/
def State.released (s : State) (x : Transfer) : State := { s with pool := { s.pool.endTransfer x with transfer := none } }

/-- The part once port `p` has the result of its transfer, before the next grant (R87, R88). -/
def State.delivered (s : State) (x : Transfer) (p : PortId) : State := (s.released x).deliver .betweenTicks p x

/-- The end of a port's transfer, whatever its kind. -/
theorem exec_portTransferEnd (hx : s.pool.transfer = some x) (hp : x.requester = .port p) {i : Instr × TransferKind}
    (hi : i ∈ [(Instr.loadEnd, TransferKind.load), (.storeEnd, .store), (.zeroEnd, .zero), (.copyEnd, .copy),
      (.verifyEnd, .verify)]) (hk : x.kind = i.2) :
    exec i.1 s = .next ((s.delivered x p).grantAll .betweenTicks) := by
  rw [exec_transferEnd s i (List.mem_append_left [(Instr.scrubEnd, TransferKind.scrub)] hi), ← hk, s.endOf_port x p hx hp]
  rfl

/-- The grants at the end of a transfer: they begin a transfer at most, and nothing happens where no request waits (R81). -/
theorem State.grantAll_released {u : State} (m : Moment) (hu : u.pool.transfer = none) (ha : u.arbiter = s.arbiter) :
    (s.noneWaits → u.grantAll m = u) ∧ u.pool = { (u.grantAll m).pool with transfer := none } := by
  refine ⟨fun hn => State.grantAll_none _ _ ?_, ?_⟩
  · rw [ha]
    exact (Arbiter.choose_eq_none _).2 hn
  · rw [(u.grantAll_rest m).1, ← hu]

theorem State.delivered_rest (s : State) (x : Transfer) (p : PortId) :
    (s.delivered x p).pool.transfer = none ∧ (s.delivered x p).arbiter = s.arbiter ∧
      (s.delivered x p).scrubber = s.scrubber := by
  obtain ⟨hpool, harb, hscrub, -⟩ := (s.released x).deliver_rest .betweenTicks p x
  exact ⟨by rw [State.delivered, hpool]; rfl, harb, hscrub⟩

/-- A result reaches a port in EXEC (R88). -/
theorem State.delivered_exec (hs : (s.port p).state = .exec) :
    (s.delivered x p).port p = (s.port p).takeResult x ∧ s.sameBut { s.delivered x p with pool := s.pool } [p] [] := by
  have hd : s.delivered x p = (s.released x).onPort p fun q => q.takeResult x := by
    refine if_neg ?_
    rw [show (s.released x).port p = s.port p from rfl, hs]
    decide
  rw [hd]
  exact ⟨State.port_onPort_self _ p _, s.sameBut_onPort p fun q => q.takeResult x⟩

section aborting

variable (hs : (s.port p).state = .aborting)
include hs

/-- A result reaches a port in ABORTING with a port reset held (R111). -/
theorem State.delivered_reset (hh : (s.port p).held = some .portReset) :
    s.resetOf (s.delivered x p) p ∧ s.sameBut { s.delivered x p with pool := s.pool } allPorts allLocks := by
  have hd : s.delivered x p = (s.released x).portResetEffect .betweenTicks p := (if_pos hs).trans (if_pos hh)
  rw [hd]
  obtain ⟨hreset, hsame⟩ := (s.released x).portResetEffect_resetOf p
  exact ⟨hreset, hsame.withPool s.pool⟩

/-- A result reaches a port in ABORTING with an abort held (R110). -/
theorem State.delivered_abort (hh : (s.port p).held = some .abort) :
    (s.delivered x p).port p = (s.port p).settleAbort x ∧ s.sameBut { s.delivered x p with pool := s.pool } [p] [] := by
  have hd : s.delivered x p = (s.released x).onPort p fun q => q.settleAbort x := by
    refine (if_pos hs).trans (if_neg ?_)
    rw [show (s.released x).port p = s.port p from rfl, hh]
    decide
  rw [hd]
  exact ⟨State.port_onPort_self _ p _, s.sameBut_onPort p fun q => q.settleAbort x⟩

end aborting

end ends

/-! ## The statements -/

/-- Settles O49: the result is one change of the port unit, and the grants follow. -/
theorem resultAtAPortInExec : Obligations.ResultAtAPortInExec := by
  intro s p x q more hx hp hs i hi hk
  obtain ⟨hfree, harb, -⟩ := s.delivered_rest x p
  obtain ⟨hquiet, hpool⟩ := State.grantAll_released .betweenTicks hfree harb
  obtain ⟨hport, hsame⟩ := State.delivered_exec (x := x) hs
  refine ⟨s.delivered x p, _, exec_portTransferEnd hx hp hi hk, rfl, hquiet, hpool, hsame, fun k hr => ?_, fun m hr => ?_⟩
  · rw [hport, Port.takeResult_failure hr]
  · rw [hport, ← hk]
    let c : Port := { q with corr := q.corr || m }
    have finished : x.kind ≠ .load → (s.port p).takeResult x = c.finishBlock := Port.takeResult_block hr
    refine ⟨fun hl => Port.takeResult_load hr hl, fun hl hc => (finished hl).trans (Port.finishBlock_last hc),
      fun d hc => ?_⟩
    have goesOn : ∀ {k : TransferKind}, x.kind = k → k ≠ .load → (s.port p).takeResult x = c.blockCompleted.nextBlock :=
      fun hl hne => (finished (hl ▸ hne)).trans (Port.finishBlock_more hc)
    refine ⟨fun hl hrun => ?_, fun hl hrun => ?_, fun hl hrun => ?_, fun hl hrun => ?_, fun hl hrun => ?_⟩
    · rw [goesOn hl nofun, Port.blockCompleted_more (q := c) hc hrun nofun]
      exact Port.nextBlock_write _ hrun
    · rw [goesOn hl nofun, Port.blockCompleted_more (q := c) hc hrun nofun]
      exact Port.nextBlock_zero _ hs hrun
    · rw [goesOn hl nofun, Port.blockCompleted_more (q := c) hc hrun nofun]
      exact Port.nextBlock_verify _ hs hrun
    · rw [goesOn hl nofun, Port.blockCompleted_ascending (q := c) hc hrun]
      exact Port.nextBlock_copy _ hs hrun
    · rw [goesOn hl nofun, Port.blockCompleted_descending (q := c) hc hrun]
      exact Port.nextBlock_copy _ hs hrun

/-- Settles O50: the action held decides what the result comes to, and the grants follow. -/
theorem transferEndInAborting : Obligations.TransferEndInAborting := by
  intro s p x q hx hp hs i hi hk
  obtain ⟨hfree, harb, -⟩ := s.delivered_rest x p
  obtain ⟨hquiet, hpool⟩ := State.grantAll_released .betweenTicks hfree harb
  refine ⟨s.delivered x p, _, exec_portTransferEnd hx hp hi hk, rfl, hquiet, hpool, State.delivered_reset hs, fun hh => ?_⟩
  obtain ⟨hport, hsame⟩ := State.delivered_abort (x := x) hs hh
  rw [hport, ← hk]
  refine ⟨hsame, fun k hr => Port.settleAbort_failure hr, fun m hr => ⟨fun hl => Port.settleAbort_load hr hl, fun hl => ?_⟩⟩
  rw [Port.settleAbort_block hr hl]
  exact ⟨rfl, by rw [q.blockCompleted_fields]; rfl⟩

end Sys2Proof.Machine
end

/-! # A step of the patrol scrubber -/

section
namespace Sys2Proof.Machine

/-! ## Grants while the scrubber has no request -/

section noRequest

variable {s : State}

/-- Without a scrub request a grant leaves the scrubber as it is. -/
theorem State.grantOne_scrubber (hr : s.arbiter.scrubReq = none) (m : Moment) :
    (s.grantOne m).arbiter.scrubReq = none ∧ (s.grantOne m).scrubber = s.scrubber := by
  cases ht : s.pool.transfer with
  | some x => rw [s.grantOne_busy m (by rw [ht]; exact nofun)]; exact ⟨hr, rfl⟩
  | none =>
    cases hc : s.arbiter.choose with
    | none => rw [s.grantOne_none m hc]; exact ⟨hr, rfl⟩
    | some c =>
      cases c with
      | scrubber =>
        have hw := s.arbiter.choose_waits.1 hc
        rw [hr] at hw
        cases hw
      | port p =>
        obtain ⟨r, hw⟩ := Option.isSome_iff_exists.1 (s.arbiter.choose_waits.2 p hc)
        obtain ⟨hallowed, hrefused⟩ := State.grantOne_port (m := m) ht hc hw
        cases ha : s.accessAllowed p r with
        | true => rw [hallowed ha]; exact ⟨hr, rfl⟩
        | false =>
          obtain ⟨-, harb, hscrub, -⟩ := (s.taken p).refuseGrant_rest m p
          rw [hrefused ha, harb, hscrub]
          exact ⟨hr, rfl⟩

theorem State.grantAll_scrubber (hr : s.arbiter.scrubReq = none) (m : Moment) :
    (s.grantAll m).arbiter.scrubReq = none ∧ (s.grantAll m).scrubber = s.scrubber := by
  have iterated : ∀ n, ((State.grantOne · m)^[n] s).arbiter.scrubReq = none ∧
      ((State.grantOne · m)^[n] s).scrubber = s.scrubber := fun n => by
    induction n with
    | zero => exact ⟨hr, rfl⟩
    | succ n ih =>
      rw [Function.iterate_succ_apply']
      obtain ⟨hreq, hscrub⟩ := State.grantOne_scrubber ih.1 m
      exact ⟨hreq, hscrub.trans ih.2⟩
  exact iterated 5

end noRequest

/-! ## The request -/

section request

variable {s : State}

/-- The part with the scrubber's request at the arbiter, its timer having run out (R148). -/
def State.scrubRequested (s : State) : State :=
  { s with
    scrubber := { s.scrubber with phase := .requested, timer := none }
    arbiter := { s.arbiter with scrubReq := some s.scrubber.position } }

/-- The timer of the scrubber has run out (R148). -/
theorem Scrubber.timerOut_iff (c : Scrubber) : c.timerOut = true ↔ ∃ m, c.timer = some m ∧ m.runsOutAt ≤ m.elapsed := by
  cases h : c.timer <;> simp [Scrubber.timerOut, h]

theorem State.requestScrub_early (h : ¬ (s.scrubber.phase = .timing ∧ ∃ m, s.scrubber.timer = some m ∧
    m.runsOutAt ≤ m.elapsed)) : s.requestScrub = s :=
  if_neg fun ⟨hp, ht⟩ => h ⟨hp, s.scrubber.timerOut_iff.1 ht⟩

theorem State.requestScrub_due {m : ScrubTimer} (hp : s.scrubber.phase = .timing) (hm : s.scrubber.timer = some m)
    (hd : m.runsOutAt ≤ m.elapsed) : s.requestScrub = s.scrubRequested.grantAll .atTick :=
  if_pos ⟨hp, s.scrubber.timerOut_iff.2 ⟨m, hm, hd⟩⟩

/-- With no port waiting the scrubber's request is the one chosen (R82). -/
theorem State.scrubRequested_choose (h : ∀ q : PortId, s.arbiter.waiting[q] = none) :
    s.scrubRequested.arbiter.choose = some .scrubber := Arbiter.choose_no_port (a := s.scrubRequested.arbiter) h

end request

/-! ## The request granted at a later event -/

section granted

variable {u : State} {b : BlockNo} {m : Moment}

/-- A waiting scrub request on which the choice falls: the scrub of a GOOD block begins, and another block is skipped,
whatever is granted after it (R83, R149). -/
theorem State.grantAll_chosen_scrub (ht : u.pool.transfer = none) (hc : u.arbiter.choose = some .scrubber)
    (hb : u.arbiter.scrubReq = some b) :
    let t := u.grantAll m
    t.arbiter.scrubReq = none ∧
      (t.pool.stateOf b = .good → t.scrubber = { u.scrubber with phase := .scrubbing } ∧
        t.arbiter = u.arbiter.withdrawScrub ∧
        t.pool.transfer = some ⟨.scrubber, .scrub, b, none, some (t.pool.readBlock b).1, (t.pool.readBlock b).2⟩) ∧
      (t.pool.stateOf b ≠ .good → t.scrubber = u.scrubber.endStep m) := by
  intro t
  have hstate : t.pool.stateOf b = u.pool.stateOf b := by
    rw [show t.pool = _ from (u.grantAll_rest m).1]
    rfl
  rw [hstate]
  by_cases hg : u.pool.stateOf b = .good
  · have htg := State.grantAll_scrub (m := m) ht hc hb hg
    rw [show t = _ from htg]
    exact ⟨rfl, fun _ => ⟨rfl, rfl, rfl⟩, fun hn => absurd hg hn⟩
  · have htg := State.grantAll_skip (m := m) ht hc hb hg
    obtain ⟨hreq, hscrub⟩ := State.grantAll_scrubber
      (s := { u with arbiter := u.arbiter.withdrawScrub, scrubber := u.scrubber.endStep m }) rfl m
    rw [show t = _ from htg]
    exact ⟨hreq, fun h => absurd h hg, fun _ => hscrub⟩

end granted

/-! ## The statement -/

/-- Settles O37: the request, its grant at a later event, and the end of the scrub. -/
theorem scrubberStep : Obligations.ScrubberStep := by
  refine ⟨fun s => ?_, fun s x p b => ?_, fun s x hx hk hr => ?_⟩
  · intro b
    refine ⟨fun h => congrArg Host.Outcome.next (State.requestScrub_early h), fun m hp hm hd =>
      ⟨_, congrArg Host.Outcome.next (State.requestScrub_due hp hm hd), fun ht => ?_, fun ht hw hg => ?_,
        fun ht hw hg hi => ?_⟩⟩
    · exact State.grantAll_busy s.scrubRequested .atTick ht
    · exact State.grantAll_scrub (s := s.scrubRequested) ht (State.scrubRequested_choose hw) rfl hg
    · rw [State.grantAll_skip (s := s.scrubRequested) ht (State.scrubRequested_choose hw) rfl hg, Scrubber.endStep_eq,
        if_neg (show s.scrubRequested.scrubber.interval ≠ 0 from hi)]
      exact State.grantAll_none _ _ (Arbiter.choose_no_port (a := s.scrubRequested.arbiter.withdrawScrub) hw)
  · intro c hx hp hc hb i hi hk
    obtain ⟨hfree, harb, hscrub⟩ := s.delivered_rest x p
    obtain ⟨hreq, hgood, hskip⟩ := State.grantAll_chosen_scrub (u := s.delivered x p) (m := .betweenTicks) hfree
      (by rw [harb]; exact hc) (by rw [harb]; exact hb)
    rw [harb, hscrub] at hgood
    rw [hscrub, Scrubber.endStep_eq] at hskip
    exact ⟨_, exec_portTransferEnd hx hp hi hk, hreq, hgood, hskip⟩
  · let u : State := { s.released x with scrubber := s.scrubber.endStep .betweenTicks }
    have hend : s.endOf .scrub = u.grantAll .betweenTicks := by
      simp only [State.endOf, hx, hk, hr, if_true]
      rfl
    obtain ⟨hquiet, hpool⟩ := State.grantAll_released (s := s) (u := u) .betweenTicks rfl rfl
    exact ⟨u, _, congrArg Host.Outcome.next hend, rfl, hquiet, hpool, Scrubber.endStep_eq _ _, fun _ _ => rfl,
      fun _ _ => rfl, State.keepsBehind.refl s⟩

end Sys2Proof.Machine
end

/-! # The settings of the supervisor: rights, the arbiter's mode, the scrubber's interval -/

section
namespace Sys2Proof.Machine

/-- A command that is accepted and ends NONE at the same event leaves its port unit answered (R94, R101). -/
theorem State.port_hand_complete (s : State) (p : PortId) (c : Command) (r : HandedRequest) :
    ((s.hand p c r).port p).complete .none = (s.port p).answered .none := by
  rw [State.port_hand]
  rfl

section settings

variable {s : State} {p : PortId} (hs : (s.port p).state = .ready)
include hs

/-- SET RIGHTS taken at once: only port 0 may give or take the right of a port from 1 to 3 (R95, R155). -/
theorem exec_setRights {target : PortId} (hp : p = 0) (ht : target ≠ 0) (hl : (s.port p).lock.toNat = target.val)
    (hparam : (s.port p).param.toNat ≤ 1) : exec (.setRights p .takenAtOnce) s = .next
      ((s.hand p .setRights (.setRights target ((s.port p).param = 1))).takeRequest p
        (.setRights target ((s.port p).param = 1))) := by
  have hlock : (s.port p).lock ≠ 0 := fun e => ht (Fin.ext (by rw [← hl, e]; rfl))
  have hle : (s.port p).lock.toNat ≤ 3 := by
    have := target.isLt
    omega
  have hport : (s.port p).portArgument = target := by simp [Port.portArgument, hl]
  have inRange : (s.port p).argumentsInRange .setRights = true := by
    simp only [Port.argumentsInRange, decide_eq_true hlock, decide_eq_true hle, decide_eq_true hparam, Bool.and_self]
  exact exec_takenAtOnce (c := .setRights) rfl hs (decide_eq_true hp) inRange (by rw [← hport]; rfl)

/-- SET ARBITER taken at once (R90, R95). -/
theorem exec_setArbiter (hr : s.rights.holds p = true) (hparam : (s.port p).param.toNat ≤ 1) :
    exec (.setArbiter p .takenAtOnce) s = .next
      ((s.hand p .setArbiter (.setArbiter ((s.port p).param = 1))).takeRequest p (.setArbiter ((s.port p).param = 1))) :=
  exec_takenAtOnce (c := .setArbiter) rfl hs hr (decide_eq_true hparam) rfl

/-- SET SCRUB taken at once: it takes any interval (R95, R151). -/
theorem exec_setScrub (hr : s.rights.holds p = true) : exec (.setScrub p .takenAtOnce) s = .next
    ((s.hand p .setScrub (.setScrub (s.port p).param)).takeRequest p (.setScrub (s.port p).param)) :=
  exec_takenAtOnce (c := .setScrub) rfl hs hr rfl rfl

end settings

/-- Settles O22: either request is one change of its own block beside the end of the command. -/
theorem setRightsAndSetArbiter : Obligations.SetRightsAndSetArbiter := by
  intro s p hs hparam
  refine ⟨fun hp target ht hl => ?_, fun hr => ?_⟩
  · refine ⟨_, exec_setRights hs hp ht hl hparam, (State.port_onPort_self _ p _).trans (s.port_hand_complete p _ _), ?_,
      fun q hq => ?_, (State.sameBut_complete (s.hand p _ _) p .none).of_onPort List.mem_cons_self⟩
    · exact (s.rights.holds_give ht _ target).trans (if_pos rfl)
    · exact (s.rights.holds_give ht _ q).trans (if_neg hq)
  · refine ⟨_, exec_setArbiter hs hr hparam, (State.port_onPort_self _ p _).trans (s.port_hand_complete p _ _), ?_,
      (State.sameBut_complete (s.hand p _ _) p .none).of_onPort List.mem_cons_self⟩
    exact congrArg (fun m => ({ s.arbiter with mode := m } : Arbiter)) (if_congr decide_eq_true_iff rfl rfl)

/-- Settles O23: SET SCRUB at the scrubber is what `State.takeSetScrub_effect` says of each phase. -/
theorem setScrubByPhase : Obligations.SetScrubByPhase := by
  intro s p hs hr n c
  obtain ⟨ht, hphases⟩ := (s.hand p .setScrub (.setScrub n)).takeSetScrub_effect n
  refine ⟨_, exec_setScrub hs hr, ?_, ?_, hphases⟩
  · rw [State.takeRequest, ht]
    exact (State.port_onPort_self _ p _).trans (s.port_hand_complete p _ _)
  · rw [State.takeRequest, ht]
    exact (State.sameBut_complete (s.hand p _ _) p .none).of_onPort List.mem_cons_self

end Sys2Proof.Machine
end

/-! # No request waits while the pool is free -/

section
namespace Sys2Proof.Machine

/-! ## What brings no request to the arbiter -/

/-- No request waits while the controller is IDLE (R81). -/
abbrev State.quiet (s : State) : Prop := s.pool.transfer = none → s.arbiter.choose = none

/-- The same transfer is in flight, and no request waits that did not wait before. -/
abbrev State.addsNoRequest (s t : State) : Prop :=
  t.pool.transfer = s.pool.transfer ∧ (∀ q : PortId, s.arbiter.waiting[q] = none → t.arbiter.waiting[q] = none) ∧
    (s.arbiter.scrubReq = none → t.arbiter.scrubReq = none)

theorem State.addsNoRequest.refl (s : State) : s.addsNoRequest s := ⟨rfl, fun _ => id, id⟩

theorem State.addsNoRequest.trans {s t u : State} (h : s.addsNoRequest t) (h' : t.addsNoRequest u) : s.addsNoRequest u := by
  obtain ⟨hpool, hports, hscrub⟩ := h
  obtain ⟨hpool', hports', hscrub'⟩ := h'
  exact ⟨hpool'.trans hpool, fun q => hports' q ∘ hports q, hscrub' ∘ hscrub⟩

/-- What leaves the pool and the arbiter as they are brings no request. -/
theorem State.keepsBehind.addsNoRequest {s t : State} (h : s.keepsBehind t) : s.addsNoRequest t := by
  obtain ⟨hpool, harb, -⟩ := h
  exact ⟨by rw [hpool], fun q => by rw [harb]; exact id, by rw [harb]; exact id⟩

theorem State.addsNoRequest.quiet {s t : State} (h : s.addsNoRequest t) (hs : s.quiet) : t.quiet := by
  obtain ⟨hpool, hports, hscrub⟩ := h
  intro ht
  obtain ⟨hw, hr⟩ := (Arbiter.choose_eq_none _).1 (hs (hpool ▸ ht))
  exact (Arbiter.choose_eq_none _).2 ⟨fun q => hports q (hw q), hscrub hr⟩

/-- The grants of an event leave no request while the controller is IDLE, whatever waited before (R81). -/
theorem State.quiet_grantAll (s : State) (m : Moment) : (s.grantAll m).quiet := fun ht => by
  by_contra hc
  exact State.beforeGrants.grantOne_ne_self _ m ht hc (State.iterate_grantOne m 5 s s.arbiter.waitCount_le)

section commands

variable (s : State) (p : PortId)

theorem State.addsNoRequest_takeRequest (r : HandedRequest) : s.addsNoRequest (s.takeRequest p r) := by
  cases r with
  | acquireShared l limit => exact (s.keepsBehind_takeAcquire p l .shared limit).addsNoRequest
  | acquireExclusive l limit => exact (s.keepsBehind_takeAcquire p l .exclusive limit).addsNoRequest
  | upgrade l limit => exact (s.keepsBehind_takeUpgrade p l limit).addsNoRequest
  | downgrade l => exact (s.keepsBehind_takeDowngrade p l).addsNoRequest
  | release l => exact (s.keepsBehind_takeRelease p l).addsNoRequest
  | renew l => exact (s.keepsBehind_takeRenew p l).addsNoRequest
  | queryLock l => exact (s.keepsBehind_takeQuery p l).addsNoRequest
  | defineLock l first count lease => exact (s.keepsBehind_takeDefine p l first count lease).addsNoRequest
  | undefineLock l => exact (s.keepsBehind_takeUndefine p l).addsNoRequest
  | breakLock l => exact (s.keepsBehind_takeBreak p l).addsNoRequest
  | setRights t give => exact .refl s
  | setArbiter fixed => exact ⟨rfl, fun _ => id, id⟩
  | setScrub n =>
    simp only [State.takeRequest, State.takeSetScrub]
    split
    case h_3 =>
      split_ifs
      · exact ⟨rfl, fun _ => id, fun _ => rfl⟩
      · exact .refl s
    all_goals exact .refl s
  | postNote t code tag => exact (s.keepsBehind_takePost p t code tag).addsNoRequest

theorem State.addsNoRequest_arriveHanded : s.addsNoRequest (s.arriveHanded p) := by
  simp only [State.arriveHanded]
  split
  · exact s.addsNoRequest_takeRequest p _
  · exact .refl s

theorem State.addsNoRequest_beginCommand (c : Command) : s.addsNoRequest (s.beginCommand p c) := by
  cases c with
  | readFaultList =>
    refine ⟨?_, fun _ => id, id⟩
    simp only [State.beginCommand, State.onPort_pool]
    split_ifs <;> rfl
  | _ => exact .refl s

theorem State.addsNoRequest_acceptCommand (c : Option Command) : s.addsNoRequest (s.acceptCommand p c) := by
  rcases s.acceptCommand_cases p c with ⟨-, h⟩ | ⟨d, -, -, h⟩ | ⟨d, -, -, -, h⟩ | ⟨d, -, -, -, h⟩ <;> rw [h]
  · exact .refl s
  · exact .refl s
  · exact .refl s
  · exact State.addsNoRequest_beginCommand (s.onPort p Port.accept) p d

theorem State.addsNoRequest_writeCommand (c : Option Command) : s.addsNoRequest (s.writeCommand p c) := by
  simp only [State.writeCommand]
  split_ifs
  · exact s.addsNoRequest_acceptCommand p c
  · exact .refl s

theorem State.addsNoRequest_writeHanded (c : Command) (h : Handing) : s.addsNoRequest (s.writeHanded p c h) := by
  simp only [State.writeHanded]
  split_ifs
  · cases h with
    | takenAtOnce => exact (s.addsNoRequest_acceptCommand p _).trans (State.addsNoRequest_arriveHanded _ p)
    | outstanding => exact s.addsNoRequest_acceptCommand p _
  · exact .refl s

theorem State.addsNoRequest_writeWindow (o : Fin 16) (v : Byte) : s.addsNoRequest (s.writeWindow p o v) := by
  simp only [State.writeWindow]
  split
  case h_2 => exact s.addsNoRequest_writeCommand p _
  case h_3 => exact (s.writeControl_behind p v).addsNoRequest
  all_goals exact .refl s

/-- A withdrawal takes a request away, or has none to take (R85). -/
theorem State.addsNoRequest_withdrawPool : s.addsNoRequest (s.withdrawPool p) := by
  have gone : s.addsNoRequest (s.dropRequest p) :=
    ⟨rfl, fun q hq => (getElem_set_port s.arbiter.waiting p q none).trans (by rw [hq, ite_self]), id⟩
  cases hq : s.poolRequested p with
  | false => rw [State.withdrawPool_nothing (.inl hq)]; exact .refl s
  | true =>
    cases hh : (s.port p).held with
    | none => rw [State.withdrawPool_nothing (.inr hh)]; exact .refl s
    | some a =>
      cases a with
      | abort => rw [State.withdrawPool_abort hq hh]; exact gone
      | portReset =>
        rw [State.withdrawPool_reset hq hh]
        exact gone.trans (State.keepsBehind_portResetEffect _ p _).addsNoRequest

theorem State.addsNoRequest_withdrawScrubRequest : s.addsNoRequest s.withdrawScrubRequest := by
  simp only [State.withdrawScrubRequest]
  split_ifs
  · exact ⟨rfl, fun _ => id, fun _ => rfl⟩
  · exact .refl s

end commands

/-! ## Every command -/

/-- What a command can do at the arbiter: it brings no request, or its last part are the grants of its event, or it resets
the part. -/
theorem exec_request_cases {i : Instr} {s t : State} (h : exec i s = .next t) :
    s.addsNoRequest t ∨ (∃ u m, t = State.grantAll u m) ∨ t.arbiter = Arbiter.reset := by
  have kept : ∀ {u : State}, s.keepsBehind u → s.addsNoRequest u := State.keepsBehind.addsNoRequest
  cases i <;> cases h
  case readBlocks p | writeBlocks p | copyBlocks p | zeroBlocks p | verifyBlocks p | readFaultList p | identify p =>
    exact .inl (s.addsNoRequest_writeCommand p _)
  case badCommand p code => exact .inl (s.addsNoRequest_writeCommand p _)
  case acquireShared p h | acquireExclusive p h | upgrade p h | downgrade p h | release p h | renew p h | queryLock p h
      | defineLock p h | undefineLock p h | breakLock p h | setRights p h | setArbiter p h | setScrub p h | postNote p h =>
    exact .inl (s.addsNoRequest_writeHanded p _ h)
  case abort p v | portReset p v => exact .inl (kept (s.writeControl_behind p v))
  case dataRead | dataWrite | statusRead | notePop | lostWrite | irqenWrite | tick => exact .inl (.refl s)
  case registerWrite p o v => exact .inl (s.addsNoRequest_writeWindow p o v)
  case powerOn | deviceReset => exact .inr (.inr rfl)
  case leaseExpiry l p => exact .inl (kept (s.keepsBehind_expireLease p l))
  case waitTimeout l p => exact .inl (kept (s.keepsBehind_timeoutWait p l))
  case scrubRequest =>
    simp only [State.requestScrub]
    split_ifs
    · exact .inr (.inl ⟨_, _, rfl⟩)
    · exact .inl (.refl s)
  case poolGrant => exact .inr (.inl ⟨_, _, rfl⟩)
  case loadEnd | storeEnd | zeroEnd | copyEnd | verifyEnd | scrubEnd =>
    simp only [State.endOf]
    split
    · exact .inl (.refl s)
    · split_ifs
      · exact .inr (.inl ⟨_, _, rfl⟩)
      · exact .inl (.refl s)
  case lockEntryWithdrawal p => exact .inl (kept (s.keepsBehind_withdrawEntry p))
  case poolRequestWithdrawal r =>
    cases r with
    | port p => exact .inl (s.addsNoRequest_withdrawPool p)
    | scrubber => exact .inl s.addsNoRequest_withdrawScrubRequest
  case tablePortReset p =>
    refine .inl ?_
    split_ifs
    · exact .refl s
    · exact kept (s.keepsBehind_portResetEffect p _)
  case storedBitDisturbance b g k =>
    refine .inl ⟨?_, fun _ => id, id⟩
    show (s.pool.disturb b g k).transfer = _
    rw [Pool.disturb_fields]
  case handedRequestArrival p => exact .inl (s.addsNoRequest_arriveHanded p)
  case handedRequestWithdrawal p => exact .inl (kept (s.keepsBehind_withdrawHanded p))
  case poolRequestArrival p =>
    simp only [State.arrivePool]
    split
    · exact .inr (.inl ⟨_, _, rfl⟩)
    · exact .inl (.refl s)

/-- Settles O56, by what each command can do at the arbiter. -/
theorem noRequestWaitsWhileThePoolIsFree : Obligations.NoRequestWaitsWhileThePoolIsFree := by
  intro i s t hs h
  rcases exec_request_cases h with hadds | ⟨u, m, rfl⟩ | hreset
  · exact hadds.quiet hs
  · exact u.quiet_grantAll m
  · intro _
    rw [hreset]
    rfl

end Sys2Proof.Machine
end

/-! # What an access at one port leaves of the other ports -/

section
namespace Sys2Proof.Machine

/-! ## One other port unit -/

/-- Another port unit `a` is `b` after an access of the host of port `p`: as it was, or with its command ended NONE or
HOLD_LOST, but for ids that entered its lost set and for a note of `p` at the tail of its note queue (R89). -/
abbrev Port.spared (p : PortId) (a b : Port) : Prop :=
  let kept := { a with lost := b.lost, notes := b.notes }
  (b = kept ∨ b = kept.complete .none ∨ b = kept.complete .holdLost) ∧
    (∀ l : LockId, a.lost[l] = true → b.lost[l] = true) ∧
    (b.notes = a.notes ∨ ∃ n : Note, n.sender = p ∧ b.notes = a.notes ++ [n])

section spared

variable {p : PortId} {a b : Port}

theorem Port.spared.refl (p : PortId) (a : Port) : a.spared p a := ⟨.inl rfl, fun _ => id, .inl rfl⟩

theorem Port.spared_appendNote (a : Port) {n : Note} (hn : n.sender = p) : a.spared p (a.appendNote n) :=
  ⟨.inl rfl, fun _ => id, .inr ⟨n, hn, rfl⟩⟩

theorem Port.spared.complete (h : a.spared p b) {k : ErrorKind} (hk : k = .none ∨ k = .holdLost) :
    a.spared p (b.complete k) := by
  obtain ⟨hkept, hlost, hnotes⟩ := h
  have ended : b.complete k = Port.complete { a with lost := b.lost, notes := b.notes } k := by
    rcases hkept with h | h | h <;> exact (congrArg (Port.complete · k) h :)
  refine ⟨.inr ?_, hlost, hnotes⟩
  rcases hk with rfl | rfl
  · exact .inl ended
  · exact .inr ended

theorem Port.spared.addLost (h : a.spared p b) (l : LockId) : a.spared p (b.addLost l) := by
  obtain ⟨hkept, hlost, hnotes⟩ := h
  refine ⟨?_, fun m hm => ?_, hnotes⟩
  · have entered : ∀ {c : Port}, b = c → b.addLost l = { c with lost := b.lost.set l true } := fun e => by rw [← e]; rfl
    exact hkept.imp entered (Or.imp entered entered)
  · rw [Port.addLost_lost_getElem, hlost m hm, Bool.true_or]

end spared

/-! ## All the other port units -/

/-- An access of the host of port `p` leads from `s` to `t` and spares the other port units. -/
abbrev State.spares (s t : State) (p : PortId) : Prop := ∀ q : PortId, q ≠ p → (s.port q).spared p (t.port q)

section operations

variable {s t : State} {p : PortId}

theorem State.spares.refl (s : State) (p : PortId) : s.spares s p := fun q _ => .refl p (s.port q)

/-- A change of the port itself is no change of another. -/
theorem State.spares.onPort (h : s.spares t p) (f : Port → Port) : s.spares (t.onPort p f) p := fun q hq => by
  rw [State.port_onPort_ne _ _ hq]
  exact h q hq

/-- Only the other port units count for what is spared of them. -/
theorem State.spares.of_others {u : State} (h : u.spares t p) (hu : ∀ q : PortId, q ≠ p → u.port q = s.port q) :
    s.spares t p := fun q hq => hu q hq ▸ h q hq

theorem State.spares.setLock (h : s.spares t p) (l : LockId) (k : Lock) : s.spares (t.setLock l k) p := h

theorem State.spares.completeAll (h : s.spares t p) (qs : List PortId) {k : ErrorKind} (hk : k = .none ∨ k = .holdLost) :
    s.spares (t.completeAll qs k) p := fun q hq => by
  rw [State.port_completeAll]
  split
  · exact (h q hq).complete hk
  · exact h q hq

theorem State.spares.addLostAll (h : s.spares t p) (qs : List PortId) (l : LockId) : s.spares (t.addLostAll qs l) p :=
  fun q hq => by
  rw [State.port_addLostAll]
  split
  · exact (h q hq).addLost l
  · exact h q hq

theorem State.spares.reexamine (h : s.spares t p) (m : Moment) (l : LockId) : s.spares (t.reexamine m l) p :=
  (h.setLock l _).completeAll _ (.inl rfl)

end operations

/-! ## The requests taken by their blocks -/

section requests

variable (s : State) (p : PortId) (l : LockId)

theorem State.spares_complete (k : ErrorKind) : s.spares (s.complete p k) p := (State.spares.refl s p).onPort _

theorem State.spares_setLock_complete (k : Lock) (e : ErrorKind) : s.spares ((s.setLock l k).complete p e) p :=
  ((State.spares.refl s p).setLock l k).onPort _

theorem State.spares_waitOrRefuse (m : Moment) (w : Wanted) (limit : Byte) : s.spares (s.waitOrRefuse m l p w limit) p := by
  rcases s.waitOrRefuse_cases m l p w limit with ⟨-, h⟩ | ⟨-, -, h⟩ | ⟨-, -, h⟩ <;> rw [h]
  · exact s.spares_complete p _
  · exact s.spares_complete p _
  · exact ((State.spares.refl s p).setLock l _).onPort _

theorem State.spares_takeAcquire (w : Wanted) (limit : Byte) : s.spares (s.takeAcquire p l w limit) p := by
  simp only [State.takeAcquire]
  split_ifs
  · exact s.spares_complete p _
  · exact s.spares_complete p _
  · exact s.spares_setLock_complete p l _ _
  · exact s.spares_waitOrRefuse p l _ w limit

theorem State.spares_takeUpgrade (limit : Byte) : s.spares (s.takeUpgrade p l limit) p := by
  simp only [State.takeUpgrade]
  split_ifs
  · exact s.spares_complete p _
  · exact s.spares_complete p _
  · exact s.spares_complete p _
  · exact s.spares_setLock_complete p l _ _
  · exact s.spares_complete p _
  · exact s.spares_waitOrRefuse p l _ .upgrade limit

/-- A record is put, the queue re-examined, and the command of port `p` ends NONE (R50, R51). -/
theorem State.spares_reexamine_complete (k : Lock) (m : Moment) :
    s.spares (((s.setLock l k).reexamine m l).complete p .none) p :=
  (((State.spares.refl s p).setLock l k).reexamine m l).onPort _

theorem State.spares_takeDowngrade : s.spares (s.takeDowngrade p l) p := by
  simp only [State.takeDowngrade]
  split_ifs
  · exact s.spares_complete p _
  · exact s.spares_complete p _
  · exact s.spares_reexamine_complete p l _ _

theorem State.spares_takeRelease : s.spares (s.takeRelease p l) p := by
  simp only [State.takeRelease]
  split_ifs
  · exact s.spares_complete p _
  · exact s.spares_complete p _
  · exact s.spares_reexamine_complete p l _ _

theorem State.spares_takeRenew : s.spares (s.takeRenew p l) p := by
  simp only [State.takeRenew]
  split_ifs
  · exact s.spares_complete p _
  · exact s.spares_complete p _
  · exact s.spares_complete p _
  · exact s.spares_setLock_complete p l _ _

theorem State.spares_takeQuery : s.spares (s.takeQuery p l) p := by
  simp only [State.takeQuery]
  split_ifs
  · exact s.spares_complete p _
  · exact (State.spares.refl s p).onPort _

theorem State.spares_takeDefine (first : BlockNo) (count lease : Byte) :
    s.spares (s.takeDefine p l first count lease) p := by
  simp only [State.takeDefine]
  split_ifs
  · exact s.spares_complete p _
  · exact s.spares_complete p _
  · exact s.spares_setLock_complete p l _ _

theorem State.spares_takeUndefine : s.spares (s.takeUndefine p l) p := by
  simp only [State.takeUndefine]
  split_ifs
  · exact s.spares_complete p _
  · exact s.spares_complete p _
  · exact s.spares_setLock_complete p l _ _

/-- BREAK LOCK is the one request that enters ids in other lost sets and ends UPGRADE waits HOLD_LOST (R29). -/
theorem State.spares_takeBreak : s.spares (s.takeBreak p l) p := by
  simp only [State.takeBreak]
  split_ifs
  · exact s.spares_complete p _
  · exact (((((State.spares.refl s p).setLock l _).addLostAll _ l).completeAll _ (.inr rfl)).reexamine _ l).onPort _

/-- POST NOTE is the one request that appends a note to another queue (R140). -/
theorem State.spares_takePost (target : PortId) (code tag : Byte) : s.spares (s.takePost p target code tag) p := by
  simp only [State.takePost]
  split_ifs
  · have posted : s.spares (s.onPort target fun q => q.appendNote ⟨p, code, tag⟩) p := fun q _ => by
      rw [State.port_onPort]
      split
      · rename_i e
        rw [e]
        exact Port.spared_appendNote _ rfl
      · exact .refl p _
    exact posted.onPort _
  · exact s.spares_complete p _

theorem State.spares_takeRequest (r : HandedRequest) : s.spares (s.takeRequest p r) p := by
  cases r with
  | acquireShared l limit => exact s.spares_takeAcquire p l .shared limit
  | acquireExclusive l limit => exact s.spares_takeAcquire p l .exclusive limit
  | upgrade l limit => exact s.spares_takeUpgrade p l limit
  | downgrade l => exact s.spares_takeDowngrade p l
  | release l => exact s.spares_takeRelease p l
  | renew l => exact s.spares_takeRenew p l
  | queryLock l => exact s.spares_takeQuery p l
  | defineLock l first count lease => exact s.spares_takeDefine p l first count lease
  | undefineLock l => exact s.spares_takeUndefine p l
  | breakLock l => exact s.spares_takeBreak p l
  | setRights t give => exact s.spares_complete p .none
  | setArbiter fixed => exact s.spares_complete p .none
  | setScrub n =>
    obtain ⟨ht, -⟩ := s.takeSetScrub_effect n
    rw [State.takeRequest, ht]
    exact s.spares_complete p .none
  | postNote t code tag => exact s.spares_takePost p t code tag

end requests

/-! ## The accesses of a window -/

section window

variable (s : State) (p : PortId)

theorem State.spares_portResetEffect : s.spares (s.portResetEffect .betweenTicks p) p := fun q hq => by
  obtain ⟨⟨-, -, hgranted, hkept⟩, -⟩ := s.portResetEffect_resetOf p
  by_cases h : ∃ l, q ∈ (s.parted .betweenTicks p l).2
  · rw [hgranted q hq h]
    exact (Port.spared.refl p _).complete (.inl rfl)
  · rw [hkept q hq (not_exists.1 h)]
    exact .refl p _

/-- Acceptance and the beginning of a command change one port unit. -/
theorem State.port_beginCommand_ne (c : Command) {q : PortId} (hq : q ≠ p) : (s.beginCommand p c).port q = s.port q := by
  cases c
  case readFaultList => exact State.port_onPort_ne _ _ hq
  all_goals exact s.port_onPort_ne _ hq

theorem State.port_acceptCommand_ne (c : Option Command) {q : PortId} (hq : q ≠ p) :
    (s.acceptCommand p c).port q = s.port q := by
  have accepted : (s.onPort p Port.accept).port q = s.port q := s.port_onPort_ne _ hq
  have ended : ∀ k, ((s.onPort p Port.accept).complete p k).port q = s.port q := fun k =>
    (State.port_onPort_ne _ _ hq).trans accepted
  rcases s.acceptCommand_cases p c with ⟨-, h⟩ | ⟨d, -, -, h⟩ | ⟨d, -, -, -, h⟩ | ⟨d, -, -, -, h⟩ <;> rw [h]
  · exact ended _
  · exact ended _
  · exact ended _
  · exact (State.port_beginCommand_ne _ p d hq).trans accepted

theorem State.spares_acceptCommand (c : Option Command) : s.spares (s.acceptCommand p c) p :=
  (State.spares.refl _ p).of_others fun _ => s.port_acceptCommand_ne p c

theorem State.spares_writeCommand (c : Option Command) : s.spares (s.writeCommand p c) p := by
  simp only [State.writeCommand]
  split_ifs
  · exact s.spares_acceptCommand p c
  · exact (State.spares.refl s p).onPort _

theorem State.spares_arriveHanded : s.spares (s.arriveHanded p) p := by
  simp only [State.arriveHanded]
  split
  · exact s.spares_takeRequest p _
  · exact .refl s p

theorem State.spares_writeHanded (c : Command) (h : Handing) : s.spares (s.writeHanded p c h) p := by
  simp only [State.writeHanded]
  split_ifs
  · cases h with
    | takenAtOnce => exact (State.spares_arriveHanded _ p).of_others fun _ => s.port_acceptCommand_ne p _
    | outstanding => exact s.spares_acceptCommand p _
  · exact (State.spares.refl s p).onPort _

theorem State.spares_takeAbort : s.spares (s.takeAbort p) p := by
  simp only [State.takeAbort]
  split
  case h_5 =>
    split_ifs
    · exact (State.spares.refl s p).onPort _
    · exact .refl s p
    · exact (State.spares.refl s p).onPort _
  case h_1 | h_2 => exact .refl s p
  all_goals exact (State.spares.refl s p).onPort _

theorem State.spares_takePortReset : s.spares (s.takePortReset p) p := by
  simp only [State.takePortReset]
  split
  case h_5 =>
    split_ifs
    · exact (State.spares.refl s p).onPort _
    · exact (State.spares.refl s p).onPort _
    · exact s.spares_portResetEffect p
  case h_6 => exact (State.spares.refl s p).onPort _
  all_goals exact s.spares_portResetEffect p

theorem State.spares_writeControl (v : Byte) : s.spares (s.writeControl p v) p := by
  simp only [State.writeControl]
  split_ifs
  · exact s.spares_takePortReset p
  · exact s.spares_takeAbort p
  · exact .refl s p

theorem State.spares_writeWindow (o : Fin 16) (v : Byte) : s.spares (s.writeWindow p o v) p := by
  simp only [State.writeWindow]
  split
  case h_2 => exact s.spares_writeCommand p _
  case h_3 => exact s.spares_writeControl p v
  case h_7 | h_8 | h_9 => exact .refl s p
  all_goals exact (State.spares.refl s p).onPort _

end window

/-- An access of a host spares the port units of the other ports. -/
theorem exec_spares {i : Instr} {p : PortId} {s t : State} (hp : i.hostPort = some p) (h : exec i s = .next t) :
    s.spares t p := by
  have own : ∀ f : Port → Port, s.spares (s.onPort p f) p := (State.spares.refl s p).onPort
  cases i <;> cases hp <;> cases h
  case readBlocks | writeBlocks | copyBlocks | zeroBlocks | verifyBlocks | readFaultList | identify | badCommand =>
    exact s.spares_writeCommand p _
  case acquireShared w | acquireExclusive w | upgrade w | downgrade w | release w | renew w | queryLock w
      | defineLock w | undefineLock w | breakLock w | setRights w | setArbiter w | setScrub w | postNote w =>
    exact s.spares_writeHanded p _ w
  case abort v | portReset v => exact s.spares_writeControl p v
  case dataRead | dataWrite | statusRead | notePop | lostWrite | irqenWrite => exact own _
  case registerWrite o v => exact s.spares_writeWindow p o v

/-- Settles O53, by what each access does to the ports. -/
theorem hostAccessKeepsOtherWindows : Obligations.HostAccessKeepsOtherWindows :=
  fun _ _ q _ _ hp hq h => exec_spares hp h q hq

end Sys2Proof.Machine
end

/-! # A write of COMMAND: its code, and the checks of acceptance -/

section
namespace Sys2Proof.Machine

/-! ## Codes -/

/-- A byte that names a command is its code (R165). -/
theorem code_of_commandOfCode {v : Byte} {c : Command} (h : commandOfCode v = some c) : c.code = v := by
  unfold commandOfCode at h
  split at h <;> cases h
  all_goals
    rename_i hv
    exact BitVec.eq_of_toNat_eq hv.symm

/-- Settles O4: the table of codes read in both directions. -/
theorem commandCodesAgree : Obligations.CommandCodesAgree :=
  ⟨fun _ c => ⟨code_of_commandOfCode, fun h => h ▸ Laws.CodeNamesCommand.of_code c⟩, rfl, rfl, rfl, rfl⟩

/-! ## One meaning for the 22 writes of COMMAND -/

section write

variable {s : State} {p : PortId} {i : Instr} {v : Byte} {c : Command} {e : ErrorKind}

theorem State.writeCommand_busy (hs : (s.port p).state ≠ .ready) (o : Option Command) :
    s.writeCommand p o = s.onPort p fun q => { q with rej := true } := if_neg hs

theorem State.writeCommand_ready (hs : (s.port p).state = .ready) (o : Option Command) :
    s.writeCommand p o = s.acceptCommand p o := if_pos hs

/-- A command that hands a request is written like any other; taken at once, its request arrives at the same event (log 4). -/
theorem State.writeHanded_eq (s : State) (p : PortId) (c : Command) (h : Handing) :
    s.writeHanded p c h = s.writeCommand p (some c) ∨
      (s.port p).state = .ready ∧ s.writeHanded p c h = (s.writeCommand p (some c)).arriveHanded p := by
  by_cases hs : (s.port p).state = .ready
  · cases h
    case takenAtOnce => exact .inr ⟨hs, by simp only [State.writeHanded, State.writeCommand, if_pos hs]⟩
    case outstanding => exact .inl (by simp only [State.writeHanded, State.writeCommand, if_pos hs])
  · exact .inl (by simp only [State.writeHanded, State.writeCommand, if_neg hs])

/-- What each of the 22 terms does is the write of the code it spells. -/
theorem exec_commandWrite (hp : i.hostPort = some p) (hv : i.codeWritten = some v) (s : State) :
    exec i s = .next (s.writeCommand p (commandOfCode v)) ∨
      (s.port p).state = .ready ∧ exec i s = .next ((s.writeCommand p (commandOfCode v)).arriveHanded p) := by
  have handed : ∀ (c : Command) (h : Handing), exec i s = .next (s.writeHanded p c h) → commandOfCode v = some c →
      exec i s = .next (s.writeCommand p (commandOfCode v)) ∨
        (s.port p).state = .ready ∧ exec i s = .next ((s.writeCommand p (commandOfCode v)).arriveHanded p) := by
    intro c h hi hc
    rw [hi, hc]
    exact (s.writeHanded_eq p c h).imp (congrArg _) (And.imp_right (congrArg _))
  cases i <;> cases hp <;> cases hv
  case readBlocks | writeBlocks | copyBlocks | zeroBlocks | verifyBlocks | readFaultList | identify | badCommand =>
    exact .inl rfl
  case acquireShared h | acquireExclusive h | upgrade h | downgrade h | release h | renew h | queryLock h
      | defineLock h | undefineLock h | breakLock h | setRights h | setArbiter h | setScrub h | postNote h =>
    exact handed _ h rfl rfl

/-! ## The outcomes of acceptance -/

theorem State.acceptCommand_noRight (hr : s.hasRight p c = false) :
    s.acceptCommand p (some c) = (s.onPort p Port.accept).complete p .noRight := by
  simp only [State.acceptCommand, (s.accept_checks p c).1, hr]
  rfl

theorem State.acceptCommand_badParam (hr : s.hasRight p c = true) (ha : (s.port p).argumentsInRange c = false) :
    s.acceptCommand p (some c) = (s.onPort p Port.accept).complete p .badParam := by
  obtain ⟨hright, hargs, -⟩ := s.accept_checks p c
  simp only [State.acceptCommand, hright, hargs, hr, ha]
  rfl

theorem State.acceptCommand_begun (hr : s.hasRight p c = true) (ha : (s.port p).argumentsInRange c = true) :
    s.acceptCommand p (some c) = (s.onPort p Port.accept).beginCommand p c := by
  obtain ⟨hright, hargs, -⟩ := s.accept_checks p c
  simp only [State.acceptCommand, hright, hargs, hr, ha]
  rfl

/-- A write refused at acceptance leaves no request to arrive, so it is answered however a request would be handed
(R94, R101). -/
theorem exec_refused (hp : i.hostPort = some p) (hv : i.codeWritten = some v) (hs : (s.port p).state = .ready)
    (h : s.acceptCommand p (commandOfCode v) = (s.onPort p Port.accept).complete p e) :
    ∃ t, exec i s = .next t ∧ t.port p = (s.port p).answered e ∧ s.sameBut t [p] [] := by
  have written : s.writeCommand p (commandOfCode v) = s.onPort p fun q => q.answered e := by
    rw [State.writeCommand_ready hs, h]
    exact s.onPort_onPort p _ _
  have stays : (s.onPort p fun q => q.answered e).arriveHanded p = s.onPort p fun q => q.answered e := by
    refine State.arriveHanded_none _ p fun r ho => ?_
    rw [State.port_onPort_self] at ho
    cases ho
  refine ⟨s.onPort p fun q => q.answered e, ?_, s.port_onPort_self p _, s.sameBut_onPort p _⟩
  rcases exec_commandWrite hp hv s with hi | ⟨-, hi⟩
  · rw [hi, written]
  · rw [hi, written, stays]

end write

/-- Settles O5: outside READY the write is discarded, and no request goes out that could arrive. -/
theorem commandWriteWhileBusySetsRej : Obligations.CommandWriteWhileBusySetsRej := by
  intro i p v s hp hv hs
  have hi := (exec_commandWrite hp hv s).resolve_right fun h => hs h.1
  rw [State.writeCommand_busy hs] at hi
  exact ⟨_, hi, s.port_onPort_self p _, s.sameBut_onPort p _⟩

/-! ## The ranges of the arguments (R95) -/

section ranges

variable (q : Port) (first : BlockNo)

theorem Port.runInRange_iff : q.runInRange first = true ↔ 1 ≤ q.count.toNat ∧ first.toNat + q.count.toNat ≤ 512 := by
  have hcount : q.count ≠ 0 ↔ 1 ≤ q.count.toNat := by bv_omega
  simp only [Port.runInRange, Bool.and_eq_true, decide_eq_true_eq, hcount]

/-- COPY BLOCKS needs both runs in range; COUNT is theirs together. -/
theorem Port.copyInRange_iff : q.argumentsInRange .copyBlocks = true ↔
    1 ≤ q.count.toNat ∧ q.block.toNat + q.count.toNat ≤ 512 ∧ q.dest.toNat + q.count.toNat ≤ 512 := by
  simp only [Port.argumentsInRange, Bool.and_eq_true, Port.runInRange_iff]
  omega

theorem Port.defineInRange_iff : q.argumentsInRange .defineLock = true ↔
    q.lock.toNat ≤ 31 ∧ 1 ≤ q.count.toNat ∧ q.block.toNat + q.count.toNat ≤ 512 := by
  simp only [Port.argumentsInRange, Bool.and_eq_true, Port.runInRange_iff, decide_eq_true_eq]

theorem Port.rightsInRange_iff : q.argumentsInRange .setRights = true ↔
    1 ≤ q.lock.toNat ∧ q.lock.toNat ≤ 3 ∧ q.param.toNat ≤ 1 := by
  have hlock : q.lock ≠ 0 ↔ 1 ≤ q.lock.toNat := by bv_omega
  simp only [Port.argumentsInRange, Bool.and_eq_true, decide_eq_true_eq, hlock, and_assoc]

end ranges

/-- Settles O6: the three refusals are the outcomes of acceptance other than a beginning, and each command's check is one of
those of R95. -/
theorem acceptanceRefusals : Obligations.AcceptanceRefusals := by
  refine ⟨fun i p v s hp hv hs => ⟨fun hc => ?_, fun c hc hr => ?_, fun c hc hr ha => ?_⟩, fun s p => ?_⟩
  · exact exec_refused hp hv hs (by rw [hc]; rfl)
  · exact exec_refused hp hv hs (by rw [hc, State.acceptCommand_noRight hr])
  · exact exec_refused hp hv hs (by rw [hc, State.acceptCommand_badParam hr ha])
  · intro q
    refine ⟨rfl, decide_eq_true_iff, fun c hc => ?_, fun c hc => ?_, fun c hc => ?_, q.copyInRange_iff, fun c hc => ?_,
      q.defineInRange_iff, q.rightsInRange_iff, decide_eq_true_iff, decide_eq_true_iff, fun c hc => ?_⟩
    · fin_cases hc <;> rfl
    · fin_cases hc <;> rfl
    · fin_cases hc <;> exact q.runInRange_iff q.block
    · fin_cases hc <;> exact decide_eq_true_iff
    · fin_cases hc <;> rfl

end Sys2Proof.Machine
end

/-! # How commands begin: block commands and records -/

section
namespace Sys2Proof.Machine

/-! ## A command that passes its checks -/

/-- READ BLOCKS, ZERO BLOCKS and VERIFY BLOCKS begin with the request of their first block (R118, R121). -/
theorem State.beginCommand_request (s : State) (p : PortId) {c : Command}
    (hc : c = .readBlocks ∨ c = .zeroBlocks ∨ c = .verifyBlocks) :
    s.beginCommand p c = s.onPort p fun q => Port.requestBlock { q with running := some ⟨c, .ascending⟩ } := by
  rcases hc with rfl | rfl | rfl <;> rfl

theorem State.beginCommand_write (s : State) (p : PortId) : s.beginCommand p .writeBlocks = s.onPort p fun q =>
    Port.openPhase { q with running := some ⟨.writeBlocks, .ascending⟩ } .dataOut := rfl

/-- COPY BLOCKS chooses its direction as it begins (R117). -/
theorem State.beginCommand_copy (s : State) (p : PortId) : s.beginCommand p .copyBlocks = s.onPort p fun q =>
    if q.copiesDown then
      Port.requestBlock { q with
        running := some ⟨.copyBlocks, .descending⟩
        block := q.block + (q.count.setWidth 9 - 1)
        dest := q.dest + (q.count.setWidth 9 - 1) }
    else Port.requestBlock { q with running := some ⟨.copyBlocks, .ascending⟩ } := rfl

/-- IDENTIFY begins with its record in staging (R160). -/
theorem State.beginCommand_identify (s : State) (p : PortId) : s.beginCommand p .identify = s.onPort p fun q =>
    Port.offerBytes { q with running := some ⟨.identify, .ascending⟩ } (s.identifyRecord p) := rfl

section begun

variable {s : State} {p : PortId} {i : Instr} {c : Command} {f : Port → Port} {q : Port}

/-- A command that passes its checks and whose beginning changes its port unit alone (R94, R96). -/
theorem exec_begun (hi : exec i s = .next (s.writeCommand p (some c))) (hs : (s.port p).state = .ready)
    (hr : s.hasRight p c = true) (ha : (s.port p).argumentsInRange c = true)
    (hb : (s.onPort p Port.accept).beginCommand p c = (s.onPort p Port.accept).onPort p f) (hq : f (s.port p).accept = q) :
    ∃ t, exec i s = .next t ∧ t.port p = q ∧ s.sameBut t [p] [] := by
  rw [State.writeCommand_ready hs, State.acceptCommand_begun hr ha, hb, State.onPort_onPort] at hi
  exact ⟨_, hi, (s.port_onPort_self p _).trans hq, s.sameBut_onPort p _⟩

end begun

/-! ## The direction of COPY BLOCKS (R117) -/

theorem Port.copiesDown_iff (q : Port) : q.copiesDown = true ↔
    q.block.toNat < q.dest.toNat ∧ q.dest.toNat ≤ q.block.toNat + q.count.toNat - 1 := by
  simp only [Port.copiesDown, Bool.and_eq_true, decide_eq_true_eq, BitVec.lt_def]

/-- The last block of a run. -/
theorem lastOfRun (b : BlockNo) {n : Byte} (hn : 1 ≤ n.toNat) :
    b + (n.setWidth 9 - 1) = BitVec.ofNat 9 (b.toNat + n.toNat - 1) := by
  bv_omega

/-- Settles O7: each beginning is one change of the port unit, and COPY BLOCKS chooses its direction there. -/
theorem blockCommandsBegin : Obligations.BlockCommandsBegin := by
  refine ⟨fun s p hs hn hrange => ?_, ?_⟩
  · have ha : (s.port p).runInRange (s.port p).block = true :=
      ((s.port p).runInRange_iff _).2 ⟨by bv_omega, hrange⟩
    refine ⟨fun x hx => ?_, exec_begun (c := .writeBlocks) rfl hs rfl ha (State.beginCommand_write _ p) rfl⟩
    fin_cases hx
    · exact exec_begun (c := .readBlocks) rfl hs rfl ha (State.beginCommand_request _ p (.inl rfl)) rfl
    · exact exec_begun (c := .zeroBlocks) rfl hs rfl ha (State.beginCommand_request _ p (.inr (.inl rfl))) rfl
    · exact exec_begun (c := .verifyBlocks) rfl hs rfl ha (State.beginCommand_request _ p (.inr (.inr rfl))) rfl
  · intro s p q b d n hs hn hb hd
    have begun := fun {r} => exec_begun (i := .copyBlocks p) (q := r) rfl hs rfl (q.copyInRange_iff.2 ⟨hn, hb, hd⟩)
      (State.beginCommand_copy _ p)
    refine ⟨fun hdown => begun ?_, fun hup => begun ?_⟩
    · rw [if_pos (show q.accept.copiesDown = true from q.copiesDown_iff.2 hdown), ← lastOfRun q.block hn,
        ← lastOfRun q.dest hn]
      rfl
    · rw [if_neg (show ¬ q.accept.copiesDown = true from fun h => hup (q.copiesDown_iff.1 h))]
      rfl

/-! ## The identify record (R160, R167) -/

/-- The bytes listed of an identify record. -/
def State.identifyBytes (s : State) (p : PortId) : List Byte :=
  [0x4D, 0x04, 0x18, 0x01, BitVec.ofNat 8 p.val, flagByte (s.rights.holds p),
    if s.arbiter.mode = .fixed then 1 else 0, s.scrubber.interval, BitVec.ofNat 8 s.scrubber.position.toNat,
    BitVec.ofNat 8 (s.scrubber.position.toNat / 256), 0x00, 0x02, 0x80, 0x20, 0x08,
    BitVec.ofNat 8 (s.pool.countState .poisoned), BitVec.ofNat 8 (s.pool.countState .poisoned / 256),
    BitVec.ofNat 8 (s.pool.countState .unwritten), BitVec.ofNat 8 (s.pool.countState .unwritten / 256)]

theorem State.identifyRecord_eq (s : State) (p : PortId) : s.identifyRecord p = record (s.identifyBytes p) := by
  have hmode : flagByte (s.arbiter.mode = .fixed) = if s.arbiter.mode = .fixed then 1 else 0 :=
    if_congr decide_eq_true_iff rfl rfl
  rw [State.identifyBytes, ← hmode]
  rfl

/-- Settles O9: a record shows the listed bytes in their places and 00h behind them. -/
theorem identifyRecord : Obligations.IdentifyRecord := by
  intro s p hs
  obtain ⟨t, ht, hport, hsame⟩ := exec_begun (i := .identify p) rfl hs rfl rfl (State.beginCommand_identify _ p) rfl
  have hstaging : (t.port p).staging = record (s.identifyBytes p) := by
    rw [hport]
    exact s.identifyRecord_eq p
  refine ⟨t, ht, hsame, by rw [hport]; rfl, fun j => ?_⟩
  have hbyte : (t.port p).staging[j] = (s.identifyBytes p).getD j.val 0 := by
    rw [hstaging]
    exact record_getElem _ j.isLt
  rw [hbyte]
  have hlen : (s.identifyBytes p).length = 19 := rfl
  obtain ⟨j, hj⟩ := j
  rcases Nat.lt_or_ge j 19 with hlisted | hbehind
  · interval_cases j <;> rfl
  · obtain ⟨k, rfl⟩ := Nat.exists_eq_add_of_le' hbehind
    exact List.getD_eq_default _ _ (hlen.trans_le hbehind)

/-! ## The fault list record (R158, R169) -/

section faults

variable (P : Pool)

theorem Pool.faultRecord_eq : P.faultRecord = record
    ([BitVec.ofNat 8 P.faults.length, flagByte P.overflow, BitVec.ofNat 8 P.corrected.toNat,
      BitVec.ofNat 8 (P.corrected.toNat / 256)] ++ P.faults.flatMap fun b => twoBytes b.toNat) := rfl

/-- Byte `j` of the entry of block `i` of the fault list, or 00h behind the last. -/
theorem Pool.faultRecord_entry {i j n : Nat} (hj : j < 2) (hn : n = 4 + (2 * i + j)) (hlt : n < 128) :
    P.faultRecord[n] = (P.faults[i]?.bind fun b => (twoBytes b.toNat)[j]?).getD 0 := by
  subst hn
  rw [Pool.faultRecord_eq, record_getElem _ hlt, List.getD_append_right _ _ _ _ (Nat.le_add_right 4 _),
    List.getD_eq_getElem?_getD, ← getElem?_flatMap_entries (f := fun b : BlockNo => twoBytes b.toNat) (fun _ => rfl) _ i hj]
  congr 2
  exact Nat.add_sub_cancel_left 4 _

end faults

/-- The overflow mark and the corrected-group count cleared, if asked for (R159). -/
def Pool.clearMarks (P : Pool) (clear : Bool) : Pool :=
  { P with overflow := if clear then false else P.overflow, corrected := if clear then 0 else P.corrected }

/-- The fault list record is captured as it stands before the clear (R158, R159). -/
theorem State.beginCommand_faultList (s : State) (p : PortId) : s.beginCommand p .readFaultList =
    State.onPort { s with pool := s.pool.clearMarks ((s.port p).param.getLsbD 0) } p fun q =>
      Port.offerBytes { q with running := some ⟨.readFaultList, .ascending⟩ } s.pool.faultRecord := by
  simp only [State.beginCommand, Pool.clearMarks]
  cases (s.port p).param.getLsbD 0 <;> rfl

/-- READ FAULT LIST of a READY port with the right (R94, R154, R158). -/
theorem exec_readFaultList {s : State} {p : PortId} (hs : (s.port p).state = .ready) (hr : s.rights.holds p = true) :
    exec (.readFaultList p) s = .next
      (State.onPort { s with pool := s.pool.clearMarks ((s.port p).param.getLsbD 0) } p fun q =>
        Port.offerBytes { q.accept with running := some ⟨.readFaultList, .ascending⟩ } s.pool.faultRecord) := by
  have begun : s.writeCommand p (some .readFaultList) = (s.onPort p Port.accept).beginCommand p .readFaultList := by
    rw [State.writeCommand_ready hs, State.acceptCommand_begun (c := .readFaultList) hr rfl]
  refine congrArg Host.Outcome.next (begun.trans ?_)
  rw [State.beginCommand_faultList, State.port_onPort_self]
  exact State.onPort_onPort { s with pool := s.pool.clearMarks ((s.port p).param.getLsbD 0) } p Port.accept _

/-- Settles O10: four bytes, and then two of each block of the list as it stood. -/
theorem faultListRecord : Obligations.FaultListRecord := by
  intro s p hs hr _
  obtain ⟨t, ht, hpool, hsame, hport⟩ : ∃ t, exec (.readFaultList p) s = .next t ∧
      t.pool = s.pool.clearMarks ((s.port p).param.getLsbD 0) ∧ s.sameBut { t with pool := s.pool } [p] [] ∧
      t.port p = Port.offerBytes { (s.port p).accept with running := some ⟨.readFaultList, .ascending⟩ } s.pool.faultRecord :=
    ⟨_, exec_readFaultList hs hr, rfl, (State.sameBut_onPort _ p _).withPool s.pool, State.port_onPort_self _ p _⟩
  have hstaging : (t.port p).staging = s.pool.faultRecord := by rw [hport]; rfl
  refine ⟨t, ht, hpool, hsame, by rw [hport]; rfl, ?_⟩
  simp only [hstaging]
  refine ⟨record_getElem _ (by decide), record_getElem _ (by decide), record_getElem _ (by decide),
    record_getElem _ (by decide), fun i => ?_, fun i => ?_⟩
  · rw [s.pool.faultRecord_entry (i := i.val) (j := 0) (by decide) (by omega) (by omega)]
    cases s.pool.faults[i.val]? <;> rfl
  · rw [s.pool.faultRecord_entry (i := i.val) (j := 1) (by decide) (by omega) (by omega)]
    cases s.pool.faults[i.val]? <;> rfl

end Sys2Proof.Machine
end

/-! # A read of STATUS, and DATA in every port state -/

section
namespace Sys2Proof.Machine

/-! ## STATUS, ERROR and the interrupt output -/

section flags

variable (s : State) (p : PortId) (q : Port)

/-- Bit `i` of a byte of eight flags. -/
theorem getLsbD_flags (b₇ b₆ b₅ b₄ b₃ b₂ b₁ b₀ : Bool) (i : Fin 8) :
    (BitVec.ofBool b₇ ++ BitVec.ofBool b₆ ++ BitVec.ofBool b₅ ++ BitVec.ofBool b₄ ++ BitVec.ofBool b₃ ++ BitVec.ofBool b₂ ++
      BitVec.ofBool b₁ ++ BitVec.ofBool b₀).getLsbD i.val = [b₀, b₁, b₂, b₃, b₄, b₅, b₆, b₇].getD i.val false := by
  fin_cases i <;> simp only [BitVec.getLsbD_append, BitVec.getLsbD_ofBool] <;> rfl

/-- Bit `i` of STATUS (R99). -/
theorem State.status_bit (i : Fin 8) : (s.status p).getLsbD i.val =
    [s.flt p, (s.port p).lostAny, (s.port p).noteWaits, (s.port p).err, (s.port p).done, (s.port p).waits,
      (s.port p).dataPhase, (s.port p).busy].getD i.val false := getLsbD_flags ..

/-- Two flags, a 0 and five bits in one byte. -/
theorem getLsbD_flags_code (a b : Bool) (c : BitVec 5) :
    let e := BitVec.ofBool a ++ BitVec.ofBool b ++ 0#1 ++ c
    e.getLsbD 7 = a ∧ e.getLsbD 6 = b ∧ e.getLsbD 5 = false ∧ ∀ i < 5, e.getLsbD i = c.getLsbD i := by
  refine ⟨?_, ?_, ?_, fun i hi => ?_⟩
  · simp only [BitVec.getLsbD_append, BitVec.getLsbD_ofBool]; rfl
  · simp only [BitVec.getLsbD_append, BitVec.getLsbD_ofBool]; rfl
  · simp only [BitVec.getLsbD_append, BitVec.getLsbD_ofBool]; rfl
  · rw [BitVec.getLsbD_append, if_pos hi]

/-- The bits of ERROR (R100). -/
theorem Port.error_bits : q.error.getLsbD 7 = q.corr ∧ q.error.getLsbD 6 = q.rej ∧ q.error.getLsbD 5 = false ∧
    ∀ i < 5, q.error.getLsbD i = q.kind.code.getLsbD i := getLsbD_flags_code q.corr q.rej q.kind.code

theorem Port.noteWaits_iff : q.noteWaits = true ↔ q.notes ≠ [] := by simp [Port.noteWaits]

theorem State.flt_iff : s.flt p = true ↔ s.pool.faults ≠ [] ∧ s.rights.holds p = true := by simp [State.flt]

theorem Port.lostAny_iff : q.lostAny = true ↔ ∃ l : LockId, q.lost[l] = true := by
  simp only [Port.lostAny, Port.lowestLost, List.find?_isSome, mem_allLocks, true_and]

/-- Two bytes share a set bit. -/
theorem and_ne_zero_iff (a b : Byte) : a &&& b ≠ 0 ↔ ∃ i < 8, a.getLsbD i = true ∧ b.getLsbD i = true := by
  rw [Ne, show (0 : Byte) = 0#8 from rfl, BitVec.zero_iff_eq_false, not_forall]
  refine exists_congr fun i => ?_
  rw [BitVec.getLsbD_and, Bool.not_eq_false, Bool.and_eq_true]
  exact ⟨fun h => ⟨BitVec.lt_of_getLsbD h.1, h⟩, And.right⟩

end flags

/-- Settles O26, bit by bit of STATUS and of ERROR. -/
theorem statusByteAndItsRead : Obligations.StatusByteAndItsRead := by
  refine ⟨fun s p => ?_, fun s p => ?_, fun s p => (s.port p).error_bits, rfl, rfl⟩
  · intro q
    have bit : ∀ {i : Nat} (hi : i < 8), (s.status p).getLsbD i =
        [s.flt p, q.lostAny, q.noteWaits, q.err, q.done, q.waits, q.dataPhase, q.busy].getD i false :=
      fun {i} hi => s.status_bit p ⟨i, hi⟩
    refine ⟨?_, ?_, ?_, ?_, ?_, ?_, ?_, ?_, ⟨rfl, rfl⟩, decide_eq_true_iff.trans (and_ne_zero_iff _ _)⟩
    · rw [bit (i := 7) (by decide)]
      exact decide_eq_true_iff
    · rw [bit (i := 6) (by decide)]
      exact decide_eq_true_iff
    · rw [bit (i := 5) (by decide)]
      exact decide_eq_true_iff
    · rw [bit (i := 4) (by decide)]
      rfl
    · rw [bit (i := 3) (by decide)]
      exact decide_eq_true_iff
    · rw [bit (i := 2) (by decide)]
      exact q.noteWaits_iff
    · rw [bit (i := 1) (by decide)]
      exact q.lostAny_iff
    · rw [bit (i := 0) (by decide)]
      exact s.flt_iff p
  · refine ⟨_, rfl, s.port_onPort_self p _, s.sameBut_onPort p _, fun i hi hne => ?_⟩
    rw [State.status_bit _ p ⟨i, hi⟩, s.status_bit p ⟨i, hi⟩, State.port_onPort_self]
    interval_cases i
    exacts [rfl, rfl, rfl, rfl, absurd rfl hne, rfl, rfl, rfl]

/-! ## DATA at a port unit (R103, R104, R105) -/

/-- A port unit whose host has just read byte 127 of staging (R103). -/
def Port.read127 (q : Port) : Port := { q with dataBus := q.staging[127], index := 128 }

section data

variable {q : Port} {v : Byte}

theorem Port.readData_outside (hs : q.state ≠ .dataIn) : q.readData = { q with dataBus := 0 } := if_neg hs

theorem Port.writeData_outside (hs : q.state ≠ .dataOut) : q.writeData v = q := if_neg hs

section read

variable (hs : q.state = .dataIn)
include hs

theorem Port.readData_next (hi : q.index < 127) :
    q.readData = { q with dataBus := q.staging[q.index], index := q.index + 1 } := by
  have hbyte : q.staging[q.index]?.getD 0 = q.staging[q.index] := by
    rw [Vector.getElem?_eq_getElem (by omega), Option.getD_some]
  have hmore : q.index + 1 < 128 := by omega
  simp only [Port.readData, if_pos hs, hbyte, if_pos hmore]

/-- The read of byte 127 ends the phase: a block of READ BLOCKS is completed, a record ends its command (R103). -/
theorem Port.readData_last (hi : q.index = 127) :
    (∀ d, q.running = some ⟨.readBlocks, d⟩ → q.readData = q.read127.finishBlock) ∧
      ((∀ d, q.running ≠ some ⟨.readBlocks, d⟩) → q.readData = q.read127.complete .none) := by
  have hbyte : q.staging[q.index]?.getD 0 = q.staging[127] := by
    simp only [hi, Vector.getElem?_eq_getElem (show 127 < 128 by decide), Option.getD_some]
  have hindex : q.index + 1 = 128 := by omega
  refine ⟨fun d hr => ?_, fun hr => ?_⟩
  · simp only [Port.readData, if_pos hs, hbyte, hindex, Nat.lt_irrefl, if_false, Port.read127, hr]
  · simp only [Port.readData, if_pos hs, hbyte, hindex, Nat.lt_irrefl, if_false, Port.read127]

end read

section write

variable (hs : q.state = .dataOut)
include hs

theorem Port.writeData_next (hi : q.index < 127) :
    q.writeData v = { q with staging := q.staging.set q.index v, index := q.index + 1 } := by
  have hfits : q.index < 128 := by omega
  have hmore : q.index + 1 < 128 := by omega
  simp only [Port.writeData, if_pos hs, dif_pos hfits, if_pos hmore]

/-- The write of byte 127 ends the phase with the request of the block (R104). -/
theorem Port.writeData_last (hi : q.index = 127) :
    q.writeData v = Port.requestBlock { q with staging := q.staging.set 127 v, index := 128 } := by
  simp only [Port.writeData, if_pos hs, hi]
  rfl

end write

/-- How READ BLOCKS goes on with the block its registers name (R121). -/
theorem Port.nextBlock_read (q : Port) {d : Direction} (hr : q.running = some ⟨.readBlocks, d⟩) :
    q.nextBlock = { q with state := .exec, outgoing := some (.pool ⟨.load, q.block, none⟩) } := by
  simp only [Port.nextBlock, Port.requestBlock, Port.poolRequest, hr]

end data

/-! ## DATA accesses of the part -/

section access

variable {s : State} {p : PortId} {v : Byte} {q : Port}

/-- A read of DATA is what it does to its port unit. -/
theorem exec_dataRead (h : (s.port p).readData = q) :
    ∃ t, exec (.dataRead p) s = .next t ∧ t.port p = q ∧ s.sameBut t [p] [] :=
  ⟨_, rfl, (s.port_onPort_self p _).trans h, s.sameBut_onPort p _⟩

/-- A write of DATA is what it does to its port unit. -/
theorem exec_dataWrite (h : (s.port p).writeData v = q) :
    ∃ t, exec (.dataWrite p v) s = .next t ∧ t.port p = q ∧ s.sameBut t [p] [] :=
  ⟨_, rfl, (s.port_onPort_self p _).trans h, s.sameBut_onPort p _⟩

theorem exec_dataWrite_ignored (hs : (s.port p).state ≠ .dataOut) : exec (.dataWrite p v) s = .next s :=
  congrArg Host.Outcome.next (s.onPort_eq_self p _ (Port.writeData_outside hs))

end access

/-- Settles O27: the 128th read finishes the block as the end of a transfer does (R116). -/
theorem dataReadInDataIn : Obligations.DataReadInDataIn := by
  intro s p q hs
  refine ⟨fun v => exec_dataWrite_ignored fun h => (nomatch hs.symm.trans h),
    fun hi => exec_dataRead (Port.readData_next hs hi), fun hi => ?_⟩
  obtain ⟨hblock, hrecord⟩ := Port.readData_last hs hi
  refine ⟨fun d hr hc => exec_dataRead ?_, fun d hr hc => exec_dataRead ?_, fun hr => exec_dataRead ?_⟩
  · refine (hblock d hr).trans ?_
    rw [Port.finishBlock_more (q := q.read127) hc, Port.blockCompleted_more (q := q.read127) hc hr (by decide)]
    exact Port.nextBlock_read _ hr
  · exact (hblock d hr).trans (Port.finishBlock_last (q := q.read127) hc)
  · exact hrecord hr

/-- Settles O28: a write of DATA is staged, and the last one requests the store. -/
theorem dataWriteInDataOut : Obligations.DataWriteInDataOut := by
  intro s p v q hs
  refine ⟨fun hi => exec_dataWrite (Port.writeData_next hs hi), fun d hi hr => exec_dataWrite ?_,
    exec_dataRead (Port.readData_outside fun h => nomatch hs.symm.trans h)⟩
  rw [Port.writeData_last hs hi]
  simp only [Port.requestBlock, Port.poolRequest, hr]

/-- Settles O29: outside a data phase DATA holds nothing. -/
theorem dataOutsideAPhase : Obligations.DataOutsideAPhase :=
  fun _ _ _ hin hout => ⟨exec_dataRead (Port.readData_outside hin), exec_dataWrite_ignored hout⟩

end Sys2Proof.Machine
end

/-! # Writes of the registers and of CONTROL -/

section
namespace Sys2Proof.Machine

/-! ## The halves of BLOCK and DEST (R98, R163) -/

section halves

variable (b : BlockNo) (v : Byte) (i : Nat)

theorem getLsbD_lowByte : (lowByte b).getLsbD i = (decide (i < 8) && b.getLsbD i) := BitVec.getLsbD_setWidth 8 b i

theorem getLsbD_highByte : (highByte b).getLsbD i = (decide (i < 8) && b.getLsbD (8 + i)) := by
  rw [highByte, BitVec.getLsbD_setWidth, BitVec.getLsbD_ushiftRight]

theorem getLsbD_withLow : (withLow b v).getLsbD i = if i < 8 then v.getLsbD i else b.getLsbD i := by
  refine BitVec.getLsbD_append.trans (ite_congr rfl (fun _ => rfl) fun hi => ?_)
  rw [BitVec.getLsbD_extractLsb', Nat.add_sub_cancel' (Nat.le_of_not_lt hi)]
  by_cases h : i - 8 < 1
  · rw [decide_eq_true h, Bool.true_and]
  · rw [decide_eq_false h, Bool.false_and, BitVec.getLsbD_of_ge b i (by omega)]

theorem getLsbD_withHigh : (withHigh b v).getLsbD i = if i < 8 then b.getLsbD i else decide (i = 8) && v.getLsbD 0 := by
  refine BitVec.getLsbD_append.trans (ite_congr rfl (fun hi => ?_) fun hi => ?_)
  · rw [BitVec.getLsbD_extractLsb', decide_eq_true hi, Bool.true_and, Nat.zero_add]
  · rw [BitVec.getLsbD_extractLsb']
    by_cases h : i = 8
    · rw [h]
      rfl
    · rw [decide_eq_false h, decide_eq_false (show ¬ i - 8 < 1 by omega), Bool.false_and, Bool.false_and]

theorem lowByte_withLow : lowByte (withLow b v) = v := BitVec.eq_of_getLsbD_eq fun i hi => by
  rw [getLsbD_lowByte, getLsbD_withLow, if_pos hi, decide_eq_true hi, Bool.true_and]

theorem lowByte_withHigh : lowByte (withHigh b v) = lowByte b := BitVec.eq_of_getLsbD_eq fun i hi => by
  rw [getLsbD_lowByte, getLsbD_lowByte, getLsbD_withHigh, if_pos hi]

theorem highByte_withLow : highByte (withLow b v) = highByte b := BitVec.eq_of_getLsbD_eq fun i _ => by
  rw [getLsbD_highByte, getLsbD_highByte, getLsbD_withLow, if_neg (by omega)]

theorem highByte_withHigh : highByte (withHigh b v) = v &&& 0x01 := BitVec.eq_of_getLsbD_eq fun i hi => by
  rw [getLsbD_highByte, getLsbD_withHigh, if_neg (by omega), decide_eq_true hi, Bool.true_and, BitVec.getLsbD_and,
    show (0x01 : Byte) = 1#8 from rfl, BitVec.getLsbD_one]
  by_cases h : i = 0
  · subst h
    simp
  · simp [h]

end halves

/-! ## Argument registers (R98) -/

/-- The offsets of the argument registers (R163). -/
def argumentOffsets : List (Fin 16) := [1, 2, 3, 4, 5, 6, 7]

/-- The other offsets. -/
def otherOffsets : List (Fin 16) := [0, 8, 9, 0xA, 0xB, 0xC, 0xD, 0xE, 0xF]

theorem mem_argumentOffsets (o : Fin 16) : o ∈ argumentOffsets ↔ 1 ≤ o.val ∧ o.val ≤ 7 := by
  revert o
  decide

theorem mem_offsets (o : Fin 16) : o ∈ argumentOffsets ∨ o ∈ otherOffsets := by
  revert o
  decide

/-- What the argument registers of a port unit read (R98, R163). -/
def Port.argument (q : Port) (o : Fin 16) : Byte :=
  match o.val with
  | 0x1 => q.param
  | 0x2 => q.count
  | 0x3 => lowByte q.block
  | 0x4 => highByte q.block
  | 0x5 => lowByte q.dest
  | 0x6 => highByte q.dest
  | _ => q.lock

section argument

variable {s t : State} {p : PortId} {q : Port} {o r : Fin 16} {v : Byte}

theorem Port.writeArgument_ignored (hs : q.state ≠ .ready) : q.writeArgument o v = q := if_neg hs

/-- A write of an argument register changes no other field of its port unit. -/
theorem Port.writeArgument_rest (q : Port) (o : Fin 16) (v : Byte) : q.writeArgument o v = { q with
    param := (q.writeArgument o v).param, count := (q.writeArgument o v).count, block := (q.writeArgument o v).block,
    dest := (q.writeArgument o v).dest, lock := (q.writeArgument o v).lock } := by
  rw [Port.writeArgument]
  split
  · split <;> rfl
  · rfl

/-- A register stores what is written to it, a high register its bit 0. -/
theorem Port.argument_writeArgument_self (hs : q.state = .ready) (ho : o ∈ argumentOffsets) (v : Byte) :
    (q.writeArgument o v).argument o = if o.val = 4 ∨ o.val = 6 then v &&& 0x01 else v := by
  rw [Port.writeArgument, if_pos hs]
  fin_cases ho
  exacts [rfl, rfl, lowByte_withLow q.block v, highByte_withHigh q.block v, lowByte_withLow q.dest v,
    highByte_withHigh q.dest v, rfl]

/-- The registers not written keep their values, the other half of a pair among them. -/
theorem Port.argument_writeArgument_ne (q : Port) (ho : o ∈ argumentOffsets) (hr : r ∈ argumentOffsets) (hne : r ≠ o)
    (v : Byte) : (q.writeArgument o v).argument r = q.argument r := by
  by_cases hs : q.state = .ready
  · rw [Port.writeArgument, if_pos hs]
    fin_cases ho <;> fin_cases hr <;> simp [Port.argument, lowByte_withHigh, highByte_withLow] at hne ⊢
  · rw [Port.writeArgument_ignored hs]

theorem State.readWindow_argument (s : State) (p : PortId) (ho : o ∈ argumentOffsets) :
    s.readWindow p o = (s.port p).argument o := by
  fin_cases ho <;> rfl

theorem State.writeWindow_argument (s : State) (p : PortId) (ho : o ∈ argumentOffsets) (v : Byte) :
    s.writeWindow p o v = s.onPort p fun q => q.writeArgument o v := by
  fin_cases ho <;> rfl

/-- The other registers do not show the argument fields of a port unit. -/
theorem State.readWindow_other (ht : t.port p = { s.port p with
      param := (t.port p).param, count := (t.port p).count, block := (t.port p).block, dest := (t.port p).dest,
      lock := (t.port p).lock })
    (hpool : t.pool = s.pool) (hrights : t.rights = s.rights) (hr : r ∈ otherOffsets) :
    t.readWindow p r = s.readWindow p r := by
  have hstatus : t.status p = s.status p := by
    simp only [State.status, State.flt, hpool, hrights]
    rw [ht]
    rfl
  rw [State.readWindow, State.readWindow, hstatus, ht]
  fin_cases hr <;> rfl

end argument

/-- What a write of IRQEN stores (R114). -/
theorem irqMask_bit (v : Byte) {i : Nat} (hi : i < 8) :
    (irqMask v).getLsbD i = (v.getLsbD i && !([7, 5, 3].contains i)) := by
  have mask : ∀ i < 8, (0x57 : Byte).getLsbD i = !([7, 5, 3].contains i) := by decide
  rw [irqMask, BitVec.getLsbD_and, mask i hi]

/-- Settles O31: a write of the window reaches one argument register, or nothing. -/
theorem registerWrites : Obligations.RegisterWrites := by
  refine ⟨fun s p o v => ⟨fun h1 h7 hs => ?_, fun h1 h7 hs => ?_, fun ho => ?_, fun ho h0 h1 => ?_⟩, fun s p v => ?_⟩
  · have ho := (mem_argumentOffsets o).2 ⟨h1, h7⟩
    obtain ⟨t, ht, hport, hsame⟩ : ∃ t, exec (.registerWrite p o v) s = .next t ∧
        t.port p = (s.port p).writeArgument o v ∧ s.sameBut t [p] [] :=
      ⟨s.onPort p fun q => q.writeArgument o v, congrArg Host.Outcome.next (s.writeWindow_argument p ho v),
        s.port_onPort_self p _, s.sameBut_onPort p _⟩
    have hfields := (s.port p).writeArgument_rest o v
    rw [← hport] at hfields
    have ⟨_, _, hpool, _, _, hrights, _⟩ := hsame
    refine ⟨t, ht, hsame, ?_, fun r hne => ?_, hfields⟩
    · rw [t.readWindow_argument p ho, hport, Port.argument_writeArgument_self hs ho]
    · rcases mem_offsets r with hr | hr
      · rw [t.readWindow_argument p hr, s.readWindow_argument p hr, hport, Port.argument_writeArgument_ne _ ho hr hne]
      · exact State.readWindow_other hfields hpool hrights hr
  · refine congrArg Host.Outcome.next ((s.writeWindow_argument p ((mem_argumentOffsets o).2 ⟨h1, h7⟩) v).trans ?_)
    exact s.onPort_eq_self p _ (Port.writeArgument_ignored hs)
  · rcases ho with ho | ho | ho
    · obtain rfl : o = 0xA := Fin.ext ho
      rfl
    · obtain rfl : o = 0xD := Fin.ext ho
      rfl
    · obtain rfl : o = 0xE := Fin.ext ho
      rfl
  · obtain rfl : o = 0x9 := Fin.ext ho
    have hcontrol : s.writeControl p v = s := by
      simp only [State.writeControl, h0, h1, Bool.false_eq_true, if_false]
    exact congrArg Host.Outcome.next hcontrol
  · have hport := s.port_onPort_self p fun q => { q with irqen := irqMask v }
    have hread : (s.onPort p fun q => { q with irqen := irqMask v }).readWindow p 0xB = irqMask v := congrArg Port.irqen hport
    refine ⟨_, rfl, s.sameBut_onPort p _, ?_, fun i hi => ?_⟩
    · rw [hread, hport]
    · rw [hread, irqMask_bit v hi]

/-! ## An abort (R106 to R110) -/

section abort

variable {s : State} {p : PortId} {v : Byte}

theorem State.takeAbort_idle (hs : (s.port p).state = .ready ∨ (s.port p).state = .aborting) : s.takeAbort p = s := by
  rcases hs with hs | hs <;> simp only [State.takeAbort, hs]

theorem State.takeAbort_phase (hs : (s.port p).state = .dataIn ∨ (s.port p).state = .dataOut) :
    s.takeAbort p = s.onPort p fun q => q.discard.complete .aborted := by
  rcases hs with hs | hs <;> simp only [State.takeAbort, hs]

theorem State.takeAbort_flying (hs : (s.port p).state = .exec) (hf : s.inFlight p = true) :
    s.takeAbort p = s.onPort p fun q => { q with state := .aborting, held := some .abort } := by
  simp only [State.takeAbort, hs, hf, if_true]

/-- A port reset held goes before an abort (R111). -/
theorem State.takeAbort_reset (hs : (s.port p).state = .exec) (hf : s.inFlight p = false)
    (hh : (s.port p).held = some .portReset) : s.takeAbort p = s := by
  simp only [State.takeAbort, hs, hf, hh, Bool.false_eq_true, if_false, if_true]

/-- Where the abort must reach another block it is held, and its withdrawal is outstanding (R108, R109; log 15). -/
theorem State.takeAbort_held (hs : (s.port p).state = .waitLock ∨
      (s.port p).state = .exec ∧ s.inFlight p = false ∧ (s.port p).held ≠ some .portReset) :
    s.takeAbort p = s.onPort p fun q => { q with held := some .abort } := by
  rcases hs with hs | ⟨hs, hf, hh⟩
  · simp only [State.takeAbort, hs]
  · simp only [State.takeAbort, hs, hf, if_neg hh, Bool.false_eq_true, if_false]

/-- Settles O32, one state of the port after the other. -/
theorem abortByState : Obligations.AbortByState := by
  intro s p v h0 h1 q
  have taken : exec (.abort p v) s = .next (s.takeAbort p) := by
    show Host.Outcome.next (s.writeControl p v) = _
    simp only [State.writeControl, h0, h1, Bool.false_eq_true, if_false, if_true]
  have changed : ∀ {f : Port → Port} {r : Port}, s.takeAbort p = s.onPort p f → f q = r →
      ∃ t, exec (.abort p v) s = .next t ∧ t.port p = r ∧ s.sameBut t [p] [] := fun {f _} h hr =>
    ⟨s.onPort p f, taken.trans (congrArg _ h), (s.port_onPort_self p f).trans hr, s.sameBut_onPort p f⟩
  refine ⟨fun hs => ?_, fun hs => ?_, fun hs hf => ?_, fun hs hf hh => ?_, fun hs => ?_⟩
  · exact taken.trans (congrArg _ (State.takeAbort_idle hs))
  · exact changed (State.takeAbort_phase hs) rfl
  · exact changed (State.takeAbort_flying hs hf) rfl
  · exact taken.trans (congrArg _ (State.takeAbort_reset hs hf hh))
  · exact changed (State.takeAbort_held hs) rfl

end abort

end Sys2Proof.Machine
end

/-! # Block commands: the direction of a copy and its pairs -/

section
namespace Sys2Proof.Machine

section direction

variable {q : Port} {i j : Nat}

/-- Ascending, the destination run starts at or below the source run, or behind its end (R117). -/
theorem Port.le_or_disjoint_of_not_copiesDown (hup : ¬ q.copiesDown = true) :
    q.dest.toNat ≤ q.block.toNat ∨ q.block.toNat + q.count.toNat ≤ q.dest.toNat := by
  rw [q.copiesDown_iff] at hup
  omega

/-- Descending, every pair reads below what the pairs of higher offsets, the earlier ones, have written (R126). -/
theorem Port.source_lt_dest_of_copiesDown (hdown : q.copiesDown = true) (hij : i < j) :
    q.block.toNat + i < q.dest.toNat + j :=
  Nat.add_lt_add (q.copiesDown_iff.1 hdown).1 hij

/-- Ascending, every pair reads off what the pairs of lower offsets, the earlier ones, have written: above it, or in a run
that lies wholly below the destination run (R126). -/
theorem Port.source_ne_dest_of_not_copiesDown (hup : ¬ q.copiesDown = true) (hij : i < j) (hj : j < q.count.toNat) :
    q.block.toNat + j ≠ q.dest.toNat + i := by
  rcases Port.le_or_disjoint_of_not_copiesDown hup with hle | hbehind
  · exact (Nat.add_lt_add_of_le_of_lt hle hij).ne'
  · have hsource : q.block.toNat + j < q.dest.toNat := by omega
    exact (Nat.lt_add_right i hsource).ne

end direction

/-- Settles O8, one direction after the other. That both runs end within the pool plays no part. -/
theorem copyNeverReadsAWrittenBlock : Obligations.CopyNeverReadsAWrittenBlock := by
  intro q i j hij hj _
  split
  · next hdown => exact (Port.source_lt_dest_of_copiesDown hdown hij).ne
  · next hup => exact Port.source_ne_dest_of_not_copiesDown hup hij hj

end Sys2Proof.Machine
end

/-! # Notes between ports -/

section
namespace Sys2Proof.Machine

/-! ## POST NOTE taken at once (R137, R140) -/

/-- What POST NOTE asks of the target's queue: the note of code PARAM and tag DEST (R137). -/
def Port.post (q : Port) (target : PortId) : HandedRequest := .postNote target q.param (lowByte q.dest)

/-- POST NOTE taken at once is its request arriving in the part with the command accepted (R137; log 4). -/
theorem exec_postNote {s : State} {p target : PortId} (hs : (s.port p).state = .ready)
    (hl : (s.port p).lock.toNat = target.val) :
    exec (.postNote p .takenAtOnce) s =
      exec (.handedRequestArrival p) (s.hand p .postNote ((s.port p).post target)) := by
  have hle : (s.port p).lock.toNat ≤ 3 := by
    have := target.isLt
    omega
  have hport : (s.port p).portArgument = target := by simp [Port.portArgument, hl]
  rw [exec_arrival (by rw [State.port_hand]; rfl)]
  exact exec_takenAtOnce (c := .postNote) rfl hs rfl (decide_eq_true hle) (by rw [← hport]; rfl)

/-- Acceptance leaves every note queue as it is. -/
theorem State.notes_hand (s : State) (p q : PortId) (c : Command) (r : HandedRequest) :
    ((s.hand p c r).port q).notes = (s.port q).notes := by
  by_cases hq : q = p
  · rw [hq, State.port_hand]
    rfl
  · rw [State.port_hand_ne hq]

/-- Settles O24: the arrival in the part with the command accepted is what `exec_takePost` says of it. -/
theorem postNote : Obligations.PostNote := by
  intro s p target hs hl note
  have hp : (s.hand p .postNote ((s.port p).post target)).port p = (s.port p).hand .postNote _ := s.port_hand p _ _
  obtain ⟨hroom, hfull⟩ := exec_takePost (exec_arrival (by rw [hp]; rfl))
  rw [← exec_postNote hs hl, s.notes_hand p target, hp] at hroom
  rw [State.endsCommand, ← exec_postNote hs hl, s.notes_hand p target, hp] at hfull
  refine ⟨fun hn => ?_, fun hn => ?_⟩
  · obtain ⟨t, ht, hother, hown, hsame⟩ := hroom hn
    refine ⟨t, ht, fun hne => ?_, fun he => ?_, hsame.of_onPort List.mem_cons_self⟩
    · rw [State.port_hand_ne hne] at hother
      exact hother hne
    · exact hown he
  · obtain ⟨t, ht, hport, hsame⟩ := hfull hn
    exact ⟨t, ht, hport, hsame.of_onPort List.mem_cons_self⟩

/-! ## The head registers and STATUS.NOTE (R99, R138) -/

theorem State.status_note (s : State) (p : PortId) : (s.status p).getLsbD 2 = (s.port p).noteWaits := s.status_bit p 2

section headNote

variable {s : State} {p : PortId}

theorem State.headNote_of_nil (h : (s.port p).notes = []) :
    s.readWindow p 0xC = 0xFF ∧ s.readWindow p 0xD = 0x00 ∧ s.readWindow p 0xE = 0x00 ∧
      (s.status p).getLsbD 2 = false := by
  rw [s.status_note p]
  simp [State.readWindow, Port.noteWaits, h]

theorem State.headNote_of_cons {n : Note} {rest : List Note} (h : (s.port p).notes = n :: rest) :
    s.readWindow p 0xC = BitVec.ofNat 8 n.sender.val ∧ s.readWindow p 0xD = n.code ∧ s.readWindow p 0xE = n.tag ∧
      (s.status p).getLsbD 2 = true := by
  rw [s.status_note p]
  simp [State.readWindow, Port.noteWaits, h]

end headNote

/-- Settles O25: the window shows the queue that is left, by whether it still holds a note. -/
theorem notePop : Obligations.NotePop := by
  intro s p v
  have hport : (s.onPort p Port.popNote).port p = { s.port p with notes := (s.port p).notes.drop 1 } := by
    rw [State.port_onPort_self, Port.popNote, List.drop_one]
  have hnotes : ((s.onPort p Port.popNote).port p).notes = (s.port p).notes.drop 1 := congrArg Port.notes hport
  refine ⟨_, rfl, hport, s.sameBut_onPort p _, fun n m rest h => ?_, fun h => ?_, fun h => ?_⟩
  · exact State.headNote_of_cons (by rw [hnotes, h, List.drop_one, List.tail_cons])
  · exact State.headNote_of_nil (by rw [hnotes, List.drop_eq_nil_of_le h])
  · exact s.onPort_eq_self p _ (by rw [Port.popNote, h, List.tail_nil, ← h])

end Sys2Proof.Machine
end

/-! # A step and the queue of commands -/

section
namespace Sys2Proof.Machine

theorem State.keepsBehind.pending {s t : State} (h : s.keepsBehind t) : t.pending = s.pending := by
  obtain ⟨-, -, -, -, -, hpending⟩ := h
  exact hpending

/-! ## The writes of COMMAND -/

section write

variable (s : State) (p : PortId)

/-- No block takes a request by a change of the queue, since the queue is the environment's (log 14). -/
@[simp] theorem State.takeRequest_pending (r : HandedRequest) : (s.takeRequest p r).pending = s.pending := by
  cases r with
  | acquireShared l limit => exact (s.keepsBehind_takeAcquire p l .shared limit).pending
  | acquireExclusive l limit => exact (s.keepsBehind_takeAcquire p l .exclusive limit).pending
  | upgrade l limit => exact (s.keepsBehind_takeUpgrade p l limit).pending
  | downgrade l => exact (s.keepsBehind_takeDowngrade p l).pending
  | release l => exact (s.keepsBehind_takeRelease p l).pending
  | renew l => exact (s.keepsBehind_takeRenew p l).pending
  | queryLock l => exact (s.keepsBehind_takeQuery p l).pending
  | defineLock l first count lease => exact (s.keepsBehind_takeDefine p l first count lease).pending
  | undefineLock l => exact (s.keepsBehind_takeUndefine p l).pending
  | breakLock l => exact (s.keepsBehind_takeBreak p l).pending
  | setRights target give => rfl
  | setArbiter fixed => rfl
  | setScrub n =>
    obtain ⟨ht, -⟩ := s.takeSetScrub_effect n
    rw [State.takeRequest, ht]
    rfl
  | postNote target code tag => exact (s.keepsBehind_takePost p target code tag).pending

@[simp] theorem State.arriveHanded_pending : (s.arriveHanded p).pending = s.pending := by
  simp only [State.arriveHanded]
  split
  · exact s.takeRequest_pending p _
  · rfl

@[simp] theorem State.beginCommand_pending (c : Command) : (s.beginCommand p c).pending = s.pending := by
  cases c <;> rfl

@[simp] theorem State.acceptCommand_pending (c : Option Command) : (s.acceptCommand p c).pending = s.pending := by
  rcases s.acceptCommand_cases p c with ⟨-, h⟩ | ⟨d, -, -, h⟩ | ⟨d, -, -, -, h⟩ | ⟨d, -, -, -, h⟩ <;> rw [h]
  · rfl
  · rfl
  · rfl
  · exact State.beginCommand_pending (s.onPort p Port.accept) p d

@[simp] theorem State.writeCommand_pending (c : Option Command) : (s.writeCommand p c).pending = s.pending := by
  simp only [State.writeCommand]
  split_ifs
  · exact s.acceptCommand_pending p c
  · rfl

@[simp] theorem State.writeWindow_pending (o : Fin 16) (v : Byte) : (s.writeWindow p o v).pending = s.pending := by
  simp only [State.writeWindow]
  split
  case h_2 => exact s.writeCommand_pending p _
  case h_3 => exact (s.writeControl_behind p v).pending
  all_goals rfl

end write

/-- The 22 writes of COMMAND answer a next state with the queue as it was, whether or not their request arrives at once. -/
theorem exec_commandWrite_pending {i : Instr} {p : PortId} {v : Byte} (hp : i.hostPort = some p)
    (hv : i.codeWritten = some v) (s : State) : ∃ t, exec i s = .next t ∧ t.pending = s.pending := by
  rcases exec_commandWrite hp hv s with h | ⟨-, h⟩
  · exact ⟨_, h, s.writeCommand_pending p _⟩
  · exact ⟨_, h, (State.arriveHanded_pending _ p).trans (s.writeCommand_pending p _)⟩

/-! ## Events at the pool -/

section pool

variable (s : State) (p : PortId)

@[simp] theorem State.grantAll_pending (m : Moment) : (s.grantAll m).pending = s.pending := by
  obtain ⟨-, -, -, hpending⟩ := s.grantAll_rest m
  exact hpending

@[simp] theorem State.deliver_pending (m : Moment) (x : Transfer) : (s.deliver m p x).pending = s.pending :=
  State.keepsBehind.pending (s.deliver_rest m p x)

@[simp] theorem State.endOf_pending (kind : TransferKind) : (s.endOf kind).pending = s.pending := by
  simp only [State.endOf]
  split
  · rfl
  · split_ifs
    · rw [State.grantAll_pending]
      split
      · exact State.deliver_pending _ _ _ _
      · rfl
    · rfl

@[simp] theorem State.arrivePool_pending : (s.arrivePool p).pending = s.pending := by
  simp only [State.arrivePool]
  split
  · exact State.grantAll_pending _ _
  · rfl

@[simp] theorem State.requestScrub_pending : s.requestScrub.pending = s.pending := by
  simp only [State.requestScrub]
  split_ifs
  · exact State.grantAll_pending _ _
  · rfl

@[simp] theorem State.withdrawPool_pending : (s.withdrawPool p).pending = s.pending := by
  simp only [State.withdrawPool]
  split_ifs
  · split
    · rfl
    · rfl
    · exact (State.keepsBehind_portResetEffect _ p _).pending
  · rfl

@[simp] theorem State.withdrawScrubRequest_pending : s.withdrawScrubRequest.pending = s.pending := by
  simp only [State.withdrawScrubRequest]
  split_ifs <;> rfl

end pool

/-! ## Every command -/

/-- Every command of the table answers a next state, and leaves the queue as it was (log 14, 18). -/
theorem exec_pending (i : Instr) (s : State) : ∃ t, exec i s = .next t ∧ t.pending = s.pending := by
  cases i
  case readBlocks | writeBlocks | copyBlocks | zeroBlocks | verifyBlocks | readFaultList | identify | badCommand
      | acquireShared | acquireExclusive | upgrade | downgrade | release | renew | queryLock | defineLock | undefineLock
      | breakLock | setRights | setArbiter | setScrub | postNote =>
    exact exec_commandWrite_pending rfl rfl s
  case abort p v | portReset p v => exact ⟨_, rfl, (s.writeControl_behind p v).pending⟩
  case dataRead | dataWrite | statusRead | notePop | lostWrite | irqenWrite => exact ⟨_, rfl, rfl⟩
  case registerWrite p o v => exact ⟨_, rfl, s.writeWindow_pending p o v⟩
  case powerOn | deviceReset | tick | storedBitDisturbance => exact ⟨_, rfl, rfl⟩
  case leaseExpiry l p => exact ⟨_, rfl, (s.keepsBehind_expireLease p l).pending⟩
  case waitTimeout l p => exact ⟨_, rfl, (s.keepsBehind_timeoutWait p l).pending⟩
  case scrubRequest => exact ⟨_, rfl, s.requestScrub_pending⟩
  case poolGrant => exact ⟨_, rfl, s.grantAll_pending _⟩
  case loadEnd | storeEnd | zeroEnd | copyEnd | verifyEnd | scrubEnd => exact ⟨_, rfl, s.endOf_pending _⟩
  case lockEntryWithdrawal p => exact ⟨_, rfl, (s.keepsBehind_withdrawEntry p).pending⟩
  case poolRequestWithdrawal r =>
    cases r with
    | port p => exact ⟨_, rfl, s.withdrawPool_pending p⟩
    | scrubber => exact ⟨_, rfl, s.withdrawScrubRequest_pending⟩
  case tablePortReset p =>
    refine ⟨_, rfl, ?_⟩
    split_ifs
    · rfl
    · exact (s.keepsBehind_portResetEffect p _).pending
  case handedRequestArrival p => exact ⟨_, rfl, s.arriveHanded_pending p⟩
  case handedRequestWithdrawal p => exact ⟨_, rfl, (s.keepsBehind_withdrawHanded p).pending⟩
  case poolRequestArrival p => exact ⟨_, rfl, s.arrivePool_pending p⟩

/-! ## The statement -/

theorem step_cons (c : Instr) (rest : List Instr) (s : State) :
    step { s with pending := c :: rest } = exec c { s with pending := rest } := rfl

theorem step_idle {s : State} (h : s.pending = []) : step s = .next s := by
  simp only [step, h]

/-- Settles O1: the two branches of a step, and what every command leaves of the queue. -/
theorem stepRunsTheFrontCommand : Obligations.StepRunsTheFrontCommand :=
  ⟨⟨step_cons, fun _ => step_idle⟩, exec_pending⟩

end Sys2Proof.Machine
end
